-- ==== Sys2Proof/Word.lean ====
section
/-! DEFINITION. The Word and its plainest arithmetic (00_scope.md R7).

A Word is a `W`-bit two's-complement signed integer (R7). `W` is a parameter of the machine (R5, R6), so throughout
the model a Word is held as its mathematical integer, an `Int`, and `Fits W` says that the integer is one that `W`
bits hold. Only `wrap` makes a new Word from arithmetic (R103). DEDUCED, safe (log 3). -/

namespace Sys2Proof

/-- `2^(W-1)`, the bound of the signed range of `W` bits. -/
def wordHalf (W : Nat) : Int := ((2 ^ (W - 1) : Nat) : Int)

/-- R7: a Word "lies in `[-2^(W-1), 2^(W-1) - 1]`". -/
abbrev Fits (W : Nat) (v : Int) : Prop := -wordHalf W ≤ v ∧ v < wordHalf W

/-- R7: `wrap(z)`, the unique Word congruent to `z` modulo `2^W`. -/
def wrap (W : Nat) (z : Int) : Int := Int.bmod z (2 ^ W)

end Sys2Proof
end

