-- ==== Sys2Proof/Config.lean ====
section
/-! DEFINITION. The implementation parameters of 00_scope.md R5. -/

namespace Sys2Proof

/-- A configuration: "a record of the six values" of R5. Fixed structure: no instruction changes it (R26). -/
structure Config where
  /-- bits in a Word -/
  W : Nat
  /-- `MEM_SIZE`, cells of main memory -/
  memSize : Nat
  /-- `NREGS`, registers in the register file -/
  nregs : Nat
  /-- `STACK_TOP_INIT`, value of `StkTop` at reset, the empty stack -/
  stackTopInit : Int
  /-- `STACK_BOTTOM`, value of `StkBot` at reset -/
  stackBottom : Int
  /-- `ENTRY`, value of `PC` at reset -/
  entry : Int
deriving DecidableEq, Repr

/-- R5: "A configuration ... is well-formed iff every constraint in the table holds." The last conjunct is the
type of `ENTRY`: it is the value of `PC`, which is one Word (R12); DEDUCED, safe (log 12). -/
abbrev Config.WF (c : Config) : Prop :=
  8 ≤ c.W ∧
  2 ≤ c.memSize ∧ (c.memSize : Int) ≤ wordHalf c.W - 1 ∧
  1 ≤ c.nregs ∧ (c.nregs : Int) ≤ wordHalf c.W - 1 ∧
  c.stackBottom ≤ c.stackTopInit ∧ c.stackTopInit ≤ (c.memSize : Int) ∧
  0 ≤ c.stackBottom ∧
  Fits c.W c.entry

/-- The test configuration `T` of R5 ("the spec's own choice"). `W`, `NREGS` and `ENTRY` are R5's defaults;
`MEM_SIZE` and the stack bounds have none (OPEN). -/
def Config.test : Config :=
  { W := 32, memSize := 128, nregs := 4, stackTopInit := 112, stackBottom := 96, entry := 0 }

end Sys2Proof
end

