-- ==== Sys2Proof/Syntax.lean ====
section
/-! DEFINITION. The instruction set: one constructor per row of spec/opcode_table.json (30_encoding.md R75). -/

namespace Sys2Proof

/-- The 21 instructions, in opcode order. Every operand is a whole Word of the instruction stream (R71, R74),
held as its signed integer (R7):
`addr` an absolute word address or jump target, `imm` the value itself, `regA`/`regB` a register-file index,
which decoding does not validate. -/
inductive Instr where
  /-- 0, R130 -/
  | add (addr : Int)
  /-- 1, R131 -/
  | sub (addr : Int)
  /-- 2, R140 -/
  | jmp (addr : Int)
  /-- 3, R142 -/
  | jz (addr : Int)
  /-- 4, R143 -/
  | jn (addr : Int)
  /-- 5, R150 -/
  | read (addr : Int)
  /-- 6, R151 -/
  | store (addr : Int)
  /-- 7, R152 -/
  | ldi (imm : Int)
  /-- 8, R132 -/
  | inc
  /-- 9, R160: data goes from `regA` to `regB` (R73) -/
  | moveregreg (regA regB : Int)
  /-- 10, R170 -/
  | call (addr : Int)
  /-- 11, R171 -/
  | ret
  /-- 12, R161 -/
  | addregreg (regA regB : Int)
  /-- 13, R162 -/
  | subregreg (regA regB : Int)
  /-- 14, R144 -/
  | jnz (addr : Int)
  /-- 15, R153 -/
  | incmem (addr : Int)
  /-- 16, R163: the destination is `regA` (R73) -/
  | addregmem (regA addr : Int)
  /-- 17, R164 -/
  | subregmem (regA addr : Int)
  /-- 18, R165 -/
  | cmp (regA regB : Int)
  /-- 19, R145: an opcode of its own (R76) -/
  | je (addr : Int)
  /-- 20, R146: an opcode of its own (R76) -/
  | jne (addr : Int)
deriving DecidableEq, Repr

end Sys2Proof
end

