-- ==== Sys2Proof/WellFormed.lean ====
section
/-! DEFINITION. Which instruction terms the instruction stream of a `W`-bit machine can hold. -/

namespace Sys2Proof

/-- The operand words of an instruction, in memory order: the operand the table lists first is word 1, the one
it lists second is word 2 (30_encoding.md R73). -/
def Instr.operands : Instr → List Int
  | .add a | .sub a | .jmp a | .jz a | .jn a | .read a | .store a => [a]
  | .ldi imm => [imm]
  | .inc | .ret => []
  | .jnz a | .incmem a | .call a | .je a | .jne a => [a]
  | .moveregreg a b | .addregreg a b | .subregreg a b | .cmp a b => [a, b]
  | .addregmem r a | .subregmem r a => [r, a]

/-- An instruction is well-formed at width `W` iff every operand is a Word of `W` bits (R7, R74). Nothing else is
checked: any Word is a legal operand, and a bad address or register id is found only when it is used (R74, R79). -/
abbrev Instr.WF (W : Nat) (i : Instr) : Prop := ∀ v ∈ i.operands, Fits W v

end Sys2Proof
end

