-- ==== Sys2Proof/Decode.lean ====
section
/-! DEFINITION. Instruction decoding and encoding (30_encoding.md), over Words and over bits. -/

namespace Sys2Proof

/-- The five formats of R72. -/
inductive Format where
  | N | A | I | RR | RM
deriving DecidableEq, Repr

/-- R72: length in Words of a format. -/
def Format.length : Format → Nat
  | .N => 1
  | .A | .I => 2
  | .RR | .RM => 3

/-- R75: the format column. -/
def Instr.format : Instr → Format
  | .inc | .ret => .N
  | .add _ | .sub _ | .jmp _ | .jz _ | .jn _ | .read _ | .store _ | .jnz _ | .incmem _ | .call _ | .je _ | .jne _ => .A
  | .ldi _ => .I
  | .moveregreg _ _ | .addregreg _ _ | .subregreg _ _ | .cmp _ _ => .RR
  | .addregmem _ _ | .subregmem _ _ => .RM

/-- R75: the opcode column. The whole of word 0 is the opcode (R71). -/
def Instr.opcode : Instr → Nat
  | .add _ => 0
  | .sub _ => 1
  | .jmp _ => 2
  | .jz _ => 3
  | .jn _ => 4
  | .read _ => 5
  | .store _ => 6
  | .ldi _ => 7
  | .inc => 8
  | .moveregreg _ _ => 9
  | .call _ => 10
  | .ret => 11
  | .addregreg _ _ => 12
  | .subregreg _ _ => 13
  | .jnz _ => 14
  | .incmem _ => 15
  | .addregmem _ _ => 16
  | .subregmem _ _ => 17
  | .cmp _ _ => 18
  | .je _ => 19
  | .jne _ => 20

/-- How the words after an opcode make its instruction. -/
inductive Maker where
  | bare (i : Instr)
  | one (mk : Int → Instr)
  | two (mk : Int → Int → Instr)

/-- R75, read from opcode to instruction: exactly the numbers 0 to 20 are opcodes. -/
def makerOf : Nat → Option Maker
  | 0 => some (.one .add)
  | 1 => some (.one .sub)
  | 2 => some (.one .jmp)
  | 3 => some (.one .jz)
  | 4 => some (.one .jn)
  | 5 => some (.one .read)
  | 6 => some (.one .store)
  | 7 => some (.one .ldi)
  | 8 => some (.bare .inc)
  | 9 => some (.two .moveregreg)
  | 10 => some (.one .call)
  | 11 => some (.bare .ret)
  | 12 => some (.two .addregreg)
  | 13 => some (.two .subregreg)
  | 14 => some (.one .jnz)
  | 15 => some (.one .incmem)
  | 16 => some (.two .addregmem)
  | 17 => some (.two .subregmem)
  | 18 => some (.two .cmp)
  | 19 => some (.one .je)
  | 20 => some (.one .jne)
  | _ => none

/-- Why words do not decode. -/
inductive DecodeReject where
  /-- R77: a Word other than 0 to 20 where an opcode is read; in the machine this is the clean halt (R185). -/
  | unrecognizedOpcode (w : Int)
  /-- there is no opcode word at all; never happens in the machine -/
  | noWord
  /-- the list ends before the operand words the opcode calls for; never happens in the machine, which reads
  memory (R80) -/
  | missingOperand
deriving DecidableEq, Repr

/-- Decode the instruction at the head of a list of Words, and what is left (R70 to R75). The opcode is compared
as a signed Word (R71), so a negative Word is no opcode. -/
def decode : List Int → Except DecodeReject (Instr × List Int)
  | [] => .error .noWord
  | .negSucc n :: _ => .error (.unrecognizedOpcode (.negSucc n))
  | .ofNat n :: ws =>
    match makerOf n, ws with
    | none, _ => .error (.unrecognizedOpcode (.ofNat n))
    | some (.bare i), ws => .ok (i, ws)
    | some (.one mk), a :: ws => .ok (mk a, ws)
    | some (.two mk), a :: b :: ws => .ok (mk a b, ws)
    | some (.one _), [] => .error .missingOperand
    | some (.two _), [] => .error .missingOperand
    | some (.two _), [_] => .error .missingOperand

/-- The Words of an instruction: its opcode, then its operands in the table's order (R70, R73). -/
def encode (i : Instr) : List Int := (i.opcode : Int) :: i.operands

/-- The Word whose `W` bits are the low `W` bits of `n` (R7, bit 0 the least significant). -/
def wordOfBits (W n : Nat) : Int := wrap W (n : Int)

/-- The `W` bits of a Word, read unsigned (R7). -/
def bitsOfWord (W : Nat) (v : Int) : Nat := (v % ((2 ^ W : Nat) : Int)).toNat

/-- `count` Words of `W` bits each from `n`, the first in the low bits. -/
def wordsOfBits (W : Nat) : Nat → Nat → List Int
  | 0, _ => []
  | count + 1, n => wordOfBits W n :: wordsOfBits W count (n / 2 ^ W)

/-- The bits of a list of Words, the first in the low bits. -/
def bitsOfWords (W : Nat) : List Int → Nat
  | [] => 0
  | v :: vs => bitsOfWord W v + 2 ^ W * bitsOfWords W vs

/-- R79: the longest instruction has 3 Words. -/
def maxLength : Nat := 3

/-- The instruction a `W`-bit machine reads from the `nbits` low bits of `w`, every higher bit 0. -/
def decodeBits (W nbits w : Nat) : Option Instr :=
  match decode (wordsOfBits W maxLength (w % 2 ^ nbits)) with
  | .ok (i, _) => some i
  | .error _ => none

/-- The bits of an instruction on a `W`-bit machine. -/
def encodeBits (W : Nat) (i : Instr) : Nat := bitsOfWords W (encode i)

/-- spec/opcode_table.json gives its match and mask "for W = 32". -/
def tableWidth : Nat := 32

/-- The instruction read from table bits `w`, `nbits` of them given, the rest 0 (words of zeros). -/
def decodeTableWord (nbits w : Nat) : Option Instr := decodeBits tableWidth nbits w

/-- The Words the table bits stand for, up to the longest instruction. -/
def tableWords (nbits w : Nat) : List Int := wordsOfBits tableWidth maxLength (w % 2 ^ nbits)

end Sys2Proof
end

