-- ==== Sys2Proof/Machine/State.lean ====
section
/-! DEFINITION. The whole state of the machine (10_state.md), the reasons a step can stop, and the state after reset. -/

namespace Sys2Proof.Machine

/-- Main memory (10_state.md R25, 20_memory.md R40) as a list of (address, Word) pairs in the one canonical form
`Memory.wf` names. A cell holds a whole Word: "The machine has no bytes" (R48; log 4). -/
abbrev Memory := List (Nat × Int)

/-- What a cell that is not listed reads as: "`mem[a] = 0` for every address `a` the image does not name"
(R27, decision D12; log 5). -/
def blankWord : Int := 0

/-- The canonical form: addresses strictly rising, and no entry equal to what an unlisted address reads as. -/
abbrev Memory.wf (m : Memory) : Prop :=
  m.Pairwise (fun p q => p.1 < q.1) ∧ ∀ p ∈ m, p.2 ≠ blankWord

/-- The four fatal error kinds (60_exceptions.md R186). The fifth name of R186, `UnrecognizedOpcode`, is the
normal halt (R185). -/
inductive ErrorKind where
  /-- R181: raised by `MEM.read` and the address phase of `MEM.store`; the value is the address. -/
  | outOfBoundsAddress
  /-- R182: raised by `STK.decTop`; the value is `StkTop`. -/
  | stackOverflow
  /-- R183: raised by `STK.checkNotEmpty`; the value is `StkTop`. -/
  | stackUnderflow
  /-- R184: raised by `DEMUX.setValue`; the value is the id. -/
  | invalidRegisterId
deriving DecidableEq, Repr

/-- The control state `run` (10_state.md R23). -/
inductive RunState where
  | running
  /-- "terminal state" entered on an unrecognised opcode (R185) -/
  | halted
  /-- the fatal stop with its kind and failing value (R180) -/
  | faulted (kind : ErrorKind) (value : Int)
deriving DecidableEq, Repr

/-- Everything 10_state.md gives the machine, and the configuration it was built from. Plain data. Every `Int` is one
Word, its signed value (R7). -/
structure State where
  /-- The configuration (R5). The MODEL's own field: R26 says it is fixed structure, and no step changes it (log 1). -/
  cfg : Config
  /-- `x[0] .. x[NREGS-1]`, the register file; `x[0]` is Reg0 (R10) -/
  x : List Int
  /-- `PC` (R12) -/
  pc : Int
  /-- `IR` (R13) -/
  ir : Int
  /-- `FLAGS`: bit 0 = Zero, bit 1 = Negative (R14) -/
  flags : Int
  /-- `StkTop` (R16) -/
  stkTop : Int
  /-- `StkBot` (R17) -/
  stkBot : Int
  /-- main memory (R25) -/
  mem : Memory
  /-- the external bus `EXT` (R18) -/
  ext : Int
  /-- the A-side internal bus `IBA` (R18) -/
  iba : Int
  /-- the B-side internal bus `IBB` (R18) -/
  ibb : Int
  /-- main memory's `pendingAddress` (R19) -/
  pend : Option Int
  /-- ALU operand cell 0 (R20) -/
  acc0 : Int
  /-- ALU operand cell 1 (R20) -/
  acc1 : Int
  /-- status memory cell 0 (R21) -/
  sm0 : Int
  /-- status memory cell 1 (R21) -/
  sm1 : Int
  /-- the Demux's selected index (R22) -/
  sel : Nat
  /-- the control state (R23) -/
  run : RunState
deriving DecidableEq, Repr

/-- Why the machine has no next state. Both are SAFE: R117 says "When `run` is `HALTED` or `FAULTED` there is no
step". An error itself is no `Fault` of the model: it is a next state whose `run` is FAULTED (R180; log 8). -/
inductive Fault where
  /-- a step or an instruction was asked of a machine whose `run` is HALTED (R185, R196); safe -/
  | halted
  /-- a step or an instruction was asked of a machine whose `run` is FAULTED (R180, R189); safe -/
  | faulted (kind : ErrorKind) (value : Int)
deriving DecidableEq, Repr

/-- What the model does not accept. -/
inductive Refusal where
  /-- raised by `exec` for an instruction with no meaning yet: no arm uses it; safe -/
  | notModelled (mnemonic : String)
  /-- raised by `step` and by `launch` for a configuration that breaks a constraint of R5
  (93_implementation_defined.md U9, "refuse"; log 9); safe -/
  | illFormedConfiguration
  /-- raised by `step` when an address phase is pending at an instruction boundary, which no program can bring
  about (93_implementation_defined.md U2, "refuse"; log 9); safe -/
  | pendingStoreAtBoundary
  /-- raised by `launch` for an image that does not fit (R201, U11; log 13); safe -/
  | imageDoesNotFit
  /-- raised by `stackReset` for a machine that has been started (R204, R206; 93_implementation_defined.md U10, "refuse";
  log 14); safe -/
  | stackResetAfterStart
deriving DecidableEq, Repr

/-- The state after reset (R27, R200), from a configuration and what the loader put into memory. -/
def State.resetWith (c : Config) (m : Memory) : State :=
  { cfg := c
    x := List.replicate c.nregs 0
    pc := c.entry, ir := 0, flags := 0
    stkTop := c.stackTopInit, stkBot := c.stackBottom
    mem := m
    ext := 0, iba := 0, ibb := 0
    pend := none, acc0 := 0, acc1 := 0, sm0 := 0, sm1 := 0, sel := 0
    run := .running }

/-- The machine right after reset: R27 in the test configuration `T` of R5 with the empty image. The choice of `T`
is a DESIGN CHOICE, unsafe (log 2); a program is loaded from outside the machine (log 11). -/
def State.reset : State := State.resetWith Config.test []

end Sys2Proof.Machine
end

