-- ==== Sys2Proof/Machine/Flags.lean ====
section
/-! DEFINITION. The flags register and every flag computation (10_state.md R14, 40_microops.md R96, R108), and the
bit-field helpers of 00_scope.md R7. -/

namespace Sys2Proof.Machine

/-- Bit `i` of a Word: "the coefficient of `2^i` in the unsigned reading of its `W` bits" (R7). Division rounds
down, so a negative Word has its two's-complement bits. -/
def wordBit (v : Int) (i : Nat) : Bool := (v / ((2 ^ i : Nat) : Int)) % 2 = 1

/-- R7: `v[hi:lo]`, read unsigned. -/
def wordSlice (v : Int) (hi lo : Nat) : Nat :=
  ((v / ((2 ^ lo : Nat) : Int)) % ((2 ^ (hi + 1 - lo) : Nat) : Int)).toNat

/-- R7: `sext_N(v)`, sign extension "of an `N`-bit value to `W` bits": the Word of `W` bits whose signed value is that of
the low `N` bits of `v`. "defined for completeness; no rule of this spec uses" it. -/
def sextN (W N : Nat) (v : Int) : Int := wrap W (wrap N v)

/-- R7: `zext_N(v)`, zero extension "of an `N`-bit value to `W` bits": the Word of `W` bits whose low `N` bits are those
of `v` and whose other bits are 0; at `N = W`, `v` itself. No rule uses it. -/
def zextN (W N : Nat) (v : Int) : Int := wrap W (v % ((2 ^ N : Nat) : Int))

/-- Bit `i` of a Word set to `b`, the other bits left. -/
def withBit (v : Int) (i : Nat) (b : Bool) : Int :=
  v + ((2 ^ i : Nat) : Int) * (b.toInt - (wordBit v i).toInt)

/-- The two bits of `FLAGS` that are used (R14, R96): the index of each. -/
inductive FlagBit where
  | zero
  | negative
deriving DecidableEq, Repr

/-- R14: "bit 0 = Zero, bit 1 = Negative". -/
def flagIndex : FlagBit → Nat
  | .zero => 0
  | .negative => 1

/-- R96: `FLAGS.getBit(i)`. -/
def flagGet (f : Int) (i : FlagBit) : Bool := wordBit f (flagIndex i)

/-- R96: `FLAGS.setBit(i, b)`. -/
def flagSet (f : Int) (i : FlagBit) (b : Bool) : Int := withBit f (flagIndex i) b

/-- R108: `SetFlags(r)` on the flags word. Both bits are cleared, then Zero is set iff `r == 0` and Negative iff
`r < 0`, on the signed value. -/
def flagsAfter (f : Int) (r : Int) : Int :=
  let cleared := flagSet (flagSet f .zero false) .negative false
  let zeroed := if r = 0 then flagSet cleared .zero true else cleared
  if r < 0 then flagSet zeroed .negative true else zeroed

/-- `Z = FLAGS[0:0]` (R14). -/
def State.flagZ (s : State) : Bool := flagGet s.flags .zero

/-- `N = FLAGS[1:1]` (R14). -/
def State.flagN (s : State) : Bool := flagGet s.flags .negative

/-- R108 on the state. -/
def State.setFlags (s : State) (r : Int) : State := { s with flags := flagsAfter s.flags r }

end Sys2Proof.Machine
end

