-- ==== Sys2Proof/Machine/Ops.lean ====
section
/-! DEFINITION. The named operations over memory, registers, buses, ALU, Demux, status memory and stack; raising an
error; the micro-operations (40_microops.md R91) and how a sequence of them is issued (R90, R117, R180). -/

namespace Sys2Proof.Machine

/-! ### Main memory and the register file -/

/-- The Word at an address of the list form. -/
def cellRead : Memory → Nat → Int
  | [], _ => blankWord
  | (b, v) :: rest, a => if b = a then v else cellRead rest a

/-- Store a Word, keeping the canonical form: writing the blank value removes the entry. -/
def cellWrite : Memory → Nat → Int → Memory
  | [], a, v => if v = blankWord then [] else [(a, v)]
  | (b, u) :: rest, a, v =>
    if a < b then (if v = blankWord then (b, u) :: rest else (a, v) :: (b, u) :: rest)
    else if a = b then (if v = blankWord then rest else (a, v) :: rest)
    else (b, u) :: cellWrite rest a v

/-- R47: an address is valid iff `0 <= a < MEM_SIZE`, on the signed value of the Word. -/
abbrev ValidAddress (c : Config) (a : Int) : Prop := 0 ≤ a ∧ a < (c.memSize : Int)

/-- R74, R104: a register id is valid iff `0 <= id < NREGS`. -/
abbrev ValidRegister (c : Config) (r : Int) : Prop := 0 ≤ r ∧ r < (c.nregs : Int)

/-- `mem[a]`. Outside `[0, MEM_SIZE)` there is no cell; this total form then answers the blank value, and no
micro-operation uses that (each checks first). -/
def State.cell (s : State) (a : Int) : Int :=
  if ValidAddress s.cfg a then cellRead s.mem a.toNat else blankWord

/-- `mem[a] <- v`, for a valid `a`. -/
def State.writeCell (s : State) (a v : Int) : State := { s with mem := cellWrite s.mem a.toNat v }

/-- `x[i]` (R10). The file always has `NREGS` registers, so the default is never used (log 14). -/
def State.reg (s : State) (i : Nat) : Int := s.x.getD i 0

/-- `x[i] <- v` (R10). "its length never changes during a run". -/
def State.setReg (s : State) (i : Nat) (v : Int) : State := { s with x := s.x.set i v }

/-! ### Taking an error, and the clean halt -/

/-- `raise K(v)` (60_exceptions.md R180): the micro-operation changes nothing, `run <- FAULTED(K, v)`, and no later
micro-operation runs. There is no handler, no saved state and no return (R180, R189). -/
def State.raise (s : State) (k : ErrorKind) (v : Int) : State := { s with run := .faulted k v }

/-- R111, R185: "otherwise `run <- HALTED` and nothing else happens". -/
def State.halt (s : State) : State := { s with run := .halted }

/-! ### The micro-operations -/

/-- Registers with a `read` port onto `EXT` (R24, R92). -/
inductive ReadPort where
  | pc | reg0 | stkTop
deriving DecidableEq, Repr

/-- Registers with a `store` port from `EXT` (R24, R93). -/
inductive StorePort where
  | pc | ir | reg0
deriving DecidableEq, Repr

/-- Registers with an `internalRead` port onto `IBA` (R24, R94). -/
inductive InternalReadPort where
  | pc | ir | reg0
deriving DecidableEq, Repr

/-- Registers with an `internalStore` port from `IBB` (R24, R95). -/
inductive InternalStorePort where
  | pc | reg0
deriving DecidableEq, Repr

/-- One of two cells: the ALU's `acc0`, `acc1` (R101) or the status memory's `sm[0]`, `sm[1]` (R107). -/
inductive Slot where
  | zero | one
deriving DecidableEq, Repr

/-- What drives the select input of the status memory (R107): "either a flag bit, obtained by `FLAGS.getBit(i)` in
the same micro-step ..., or the constant 1". -/
inductive SelectInput where
  | flag (i : FlagBit)
  | const (b : Bool)
deriving DecidableEq, Repr

/-- The four ALU operations (R102). -/
inductive AluOp where
  | add | sub | inc | compare
deriving DecidableEq, Repr

/-- The vocabulary of 40_microops.md R91, and `operandRead`, which is the `MEM.read` of an OPERAND (R116) when the
operand word is already known from decoding (log 10). -/
inductive MicroOp where
  /-- `X.read`, R92 -/
  | read (r : ReadPort)
  /-- `X.store`, R93 -/
  | store (r : StorePort)
  /-- `X.internalRead`, R94 -/
  | internalRead (r : InternalReadPort)
  /-- `X.internalStore`, R95 -/
  | internalStore (r : InternalStorePort)
  /-- `FLAGS.getBit(i)`, R96: returns the bit to the control unit, changes nothing -/
  | flagsGetBit (i : FlagBit)
  /-- `FLAGS.setBit(i, b)`, R96 -/
  | flagsSetBit (i : FlagBit) (b : Bool)
  /-- `ALU.storeOperand(k)`, R101 -/
  | aluStoreOperand (k : Slot)
  /-- `ALU.internalStoreOperand(k)`, R101; no microprogram issues it -/
  | aluInternalStoreOperand (k : Slot)
  /-- `ALU.readOperand(k)`, R101; no microprogram issues it -/
  | aluReadOperand (k : Slot)
  /-- `ALU.internalReadOperand(k)`, R101 -/
  | aluInternalReadOperand (k : Slot)
  /-- `ALU.add`, `ALU.sub`, `ALU.inc`, `ALU.compare`, R102 -/
  | alu (op : AluOp)
  /-- `DEMUX.setValue`, R104 -/
  | demuxSetValue
  /-- `DEMUX.registersInternalRead`, R105 -/
  | demuxInternalRead
  /-- `DEMUX.registersInternalStore`, R106 -/
  | demuxInternalStore
  /-- `SM.storeIn(k)`, R107 -/
  | smStoreIn (k : Slot)
  /-- `SM.select(b)`, R107 -/
  | smSelect (b : SelectInput)
  /-- `FLAGS.update`, R108 -/
  | flagsUpdate
  /-- `MEM.read`, R42 -/
  | memRead
  /-- `MEM.store`, R43 and R44 -/
  | memStore
  /-- the `MEM.read` of OPERAND whose word is `w`, R116 -/
  | operandRead (w : Int)
  /-- `STK.decTop`, R113 -/
  | stkDecTop
  /-- `STK.checkNotEmpty`, R114 -/
  | stkCheckNotEmpty
  /-- `STK.incTop`, R115 -/
  | stkIncTop
deriving DecidableEq, Repr

/-- `EXT <- X` (R92). -/
def readStep : ReadPort → State → State
  | .pc, s => { s with ext := s.pc }
  | .reg0, s => { s with ext := s.reg 0 }
  | .stkTop, s => { s with ext := s.stkTop }

/-- `X <- EXT` (R93). -/
def storeStep : StorePort → State → State
  | .pc, s => { s with pc := s.ext }
  | .ir, s => { s with ir := s.ext }
  | .reg0, s => s.setReg 0 s.ext

/-- `IBA <- X` (R94). -/
def internalReadStep : InternalReadPort → State → State
  | .pc, s => { s with iba := s.pc }
  | .ir, s => { s with iba := s.ir }
  | .reg0, s => { s with iba := s.reg 0 }

/-- `X <- IBB` (R95). -/
def internalStoreStep : InternalStorePort → State → State
  | .pc, s => { s with pc := s.ibb }
  | .reg0, s => s.setReg 0 s.ibb

/-- `acc_k` (R20). -/
def State.acc (s : State) : Slot → Int
  | .zero => s.acc0
  | .one => s.acc1

/-- `acc_k <- v` (R101). -/
def State.setAcc (s : State) : Slot → Int → State
  | .zero, v => { s with acc0 := v }
  | .one, v => { s with acc1 := v }

/-- The Word an ALU operation writes to `acc1` (R102, R103): exact on integers, then wrapped. -/
def aluResult (W : Nat) (op : AluOp) (acc0 acc1 : Int) : Int :=
  match op with
  | .add => wrap W (acc0 + acc1)
  | .sub => wrap W (acc0 - acc1)
  | .inc => wrap W (acc1 + 1)
  | .compare => wrap W (acc0 - acc1)

/-- `DEMUX.setValue` (R104). -/
def demuxSetValueStep (s : State) : State :=
  if ValidRegister s.cfg s.ext then { s with sel := s.ext.toNat } else s.raise .invalidRegisterId s.ext

/-- `SM.storeIn(k)` (R107). -/
def smStoreInStep : Slot → State → State
  | .zero, s => { s with sm0 := s.ext }
  | .one, s => { s with sm1 := s.ext }

/-- The bit on the status memory's select input (R107). -/
def selectBit (s : State) : SelectInput → Bool
  | .flag i => flagGet s.flags i
  | .const b => b

/-- `SM.select(b)` (R107): "returns cell 1 if `flagBit == 1`, else cell 0, onto the bus". -/
def smSelectStep (b : SelectInput) (s : State) : State :=
  { s with ext := if selectBit s b then s.sm1 else s.sm0 }

/-- `MEM.read` (R42), with the word that the cell holds given by the caller. -/
def memReadStep (w : Int) (s : State) : State :=
  if ValidAddress s.cfg s.ext then { s with ext := w } else s.raise .outOfBoundsAddress s.ext

/-- `MEM.store`: the address phase when nothing is pending (R43), else the data phase (R44). -/
def memStoreStep (s : State) : State :=
  match s.pend with
  | none =>
    if ValidAddress s.cfg s.ext then { s with pend := some s.ext } else s.raise .outOfBoundsAddress s.ext
  | some a => { s.writeCell a s.ext with pend := none }

/-- `STK.decTop` (R113). -/
def stkDecTopStep (s : State) : State :=
  if s.stkTop - 1 < s.stkBot then s.raise .stackOverflow s.stkTop else { s with stkTop := s.stkTop - 1 }

/-- `STK.checkNotEmpty` (R114). `initialTop` is configuration, not a register (R26). -/
def stkCheckNotEmptyStep (s : State) : State :=
  if s.stkTop = s.cfg.stackTopInit then s.raise .stackUnderflow s.stkTop else s

/-- The effect of one micro-operation (R91). -/
def microStep : MicroOp → State → State
  | .read r, s => readStep r s
  | .store r, s => storeStep r s
  | .internalRead r, s => internalReadStep r s
  | .internalStore r, s => internalStoreStep r s
  | .flagsGetBit _, s => s
  | .flagsSetBit i b, s => { s with flags := flagSet s.flags i b }
  | .aluStoreOperand k, s => s.setAcc k s.iba
  | .aluInternalStoreOperand k, s => s.setAcc k s.ibb
  | .aluReadOperand k, s => { s with iba := s.acc k }
  | .aluInternalReadOperand k, s => { s with ibb := s.acc k }
  | .alu op, s => { s with acc1 := aluResult s.cfg.W op s.acc0 s.acc1 }
  | .demuxSetValue, s => demuxSetValueStep s
  | .demuxInternalRead, s => { s with iba := s.reg s.sel }
  | .demuxInternalStore, s => s.setReg s.sel s.ibb
  | .smStoreIn k, s => smStoreInStep k s
  | .smSelect b, s => smSelectStep b s
  | .flagsUpdate, s => s.setFlags s.ibb
  | .memRead, s => memReadStep (s.cell s.ext) s
  | .memStore, s => memStoreStep s
  | .operandRead w, s => memReadStep w s
  | .stkDecTop, s => stkDecTopStep s
  | .stkCheckNotEmpty, s => stkCheckNotEmptyStep s
  | .stkIncTop, s => { s with stkTop := s.stkTop + 1 }

/-- Issue micro-operations in order, each complete before the next (R90). Once `run` is not RUNNING no further
micro-operation is issued (R180). -/
def runMicro : List MicroOp → State → State
  | [], s => s
  | op :: ops, s =>
    match s.run with
    | .running => runMicro ops (microStep op s)
    | _ => s

/-- What an instruction's micro-operations make of a state. A machine that is not RUNNING has no step (R117). -/
def issue (program : List MicroOp) (s : State) : Host.Outcome State Fault Refusal :=
  match s.run with
  | .running => .next (runMicro program s)
  | .halted => .fault .halted
  | .faulted k v => .fault (.faulted k v)

/-! ### Composite operations of 20_memory.md -/

/-- The Word put on the external bus (R18: "unconditional overwrite, no error"). -/
def putExt (v : Int) (s : State) : State := { s with ext := v }

/-- `MemRead(a, 1)` (R42): the address on the bus, then `MEM.read`; the answer is on `EXT`. -/
def memReadAt (a : Int) (s : State) : State := runMicro [.memRead] (putExt a s)

/-- `MemWrite(a, 1, v)` (R45): the address on the bus, `MEM.store`, the data on the bus, `MEM.store`. -/
def memWriteAt (a v : Int) (s : State) : State :=
  let s1 := runMicro [.memStore] (putExt a s)
  match s1.run with
  | .running => runMicro [.memStore] (putExt v s1)
  | _ => s1

/-- `Push(v)` (R51): `STK.decTop`, then `MemWrite(StkTop, 1, v)` with the new `StkTop`. -/
def push (v : Int) (s : State) : State :=
  let s1 := runMicro [.stkDecTop] s
  match s1.run with
  | .running => memWriteAt s1.stkTop v s1
  | _ => s1

/-- `Pop()` (R52): the result is on `EXT`. -/
def pop (s : State) : State :=
  runMicro [.stkCheckNotEmpty, .read .stkTop, .memRead, .stkIncTop] s

/-- A sequence of pushes, first value first (R53). -/
def pushAll : List Int → State → State
  | [], s => s
  | v :: vs, s => pushAll vs (push v s)

/-- A number of pops: the values in the order they are popped, and the state after (R53). -/
def popAll : Nat → State → List Int × State
  | 0, s => ([], s)
  | n + 1, s => ((pop s).ext :: (popAll n (pop s)).1, (popAll n (pop s)).2)

end Sys2Proof.Machine
end

