-- ==== Sys2Proof/Machine/Operands.lean ====
section
/-! DEFINITION. The shared sequences of micro-operations (40_microops.md R109, R110, R116) and every operand form of
the instruction set (30_encoding.md R74): the immediate word, the address operand, the register operand. -/

namespace Sys2Proof.Machine

/-- Where a microprogram's OPERAND gets its word: `none`, from memory, as the control unit does; `some w`, the word
`w` that decoding found at that address (log 10). -/
abbrev OperandWord := Option Int

/-- `INCPC` (R109): `PC <- wrap(PC + 1)` through the ALU. -/
def incPc : List MicroOp :=
  [.internalRead .pc, .aluStoreOperand .one, .alu .inc, .aluInternalReadOperand .one, .internalStore .pc]

/-- `OPERAND` (R116): `EXT <- MemRead(PC, 1)`. -/
def operand : OperandWord → List MicroOp
  | none => [.read .pc, .memRead]
  | some w => [.read .pc, .operandRead w]

/-- `FETCH` (R110). -/
def fetchSequence : List MicroOp := [.read .pc, .memRead, .store .ir]

/-- The micro-operation of `DECODE_DISPATCH` (R111); the dispatch itself is control logic. -/
def decodeSequence : List MicroOp := [.internalRead .ir]

/-- A register operand (44_register_ops.md R166): its id is read as an operand word and set in the Demux, which
checks it. -/
def registerOperand (id : OperandWord) : List MicroOp := operand id ++ [.demuxSetValue]

/-- A memory operand on its way to `acc1`, with Reg0 saved in `acc0` and used as the carrier
(41_acc_arith.md R130 steps 2 to 8, 43_memory_ops.md R153 steps 2 to 8, 44_register_ops.md R163 steps 5 to 11). -/
def memoryOperand (addr : OperandWord) : List MicroOp :=
  [.internalRead .reg0, .aluStoreOperand .zero] ++ operand addr ++
    [.memRead, .store .reg0, .internalRead .reg0, .aluStoreOperand .one]

/-- The two register operands of format RR: `x[regA]` to `acc0`, then `regB` selected
(44_register_ops.md R160 and R161 steps 1 to 8). -/
def registerPair (regA regB : OperandWord) : List MicroOp :=
  incPc ++ registerOperand regA ++ [.demuxInternalRead, .aluStoreOperand .zero] ++
    incPc ++ registerOperand regB

end Sys2Proof.Machine
end

