-- ==== Sys2Proof/Machine/AccArith.lean ====
section
/-! DEFINITION. Accumulator arithmetic: ADD, SUB, INC (41_acc_arith.md). -/

namespace Sys2Proof.Machine

/-- The microprogram of R130, with the ALU operation of step 9 left open (R131). -/
def accMemProgram (op : AluOp) (addr : OperandWord) : List MicroOp :=
  incPc ++ memoryOperand addr ++
    [.alu op, .aluInternalReadOperand .one, .flagsUpdate, .internalStore .reg0] ++ incPc

/-- ADD (R130). -/
def addProgram (addr : OperandWord) : List MicroOp := accMemProgram .add addr

/-- SUB (R131). -/
def subProgram (addr : OperandWord) : List MicroOp := accMemProgram .sub addr

/-- INC (R132). -/
def incProgram : List MicroOp :=
  [.internalRead .reg0, .aluStoreOperand .one, .alu .inc, .aluInternalReadOperand .one, .flagsUpdate,
    .internalStore .reg0] ++ incPc

/-- R130: Reg0 <- Reg0 + mem[addr]; flags updated. -/
def execAdd (addr : Int) (s : State) : Host.Outcome State Fault Refusal := issue (addProgram (some addr)) s

/-- R131: Reg0 <- Reg0 - mem[addr]; flags updated. -/
def execSub (addr : Int) (s : State) : Host.Outcome State Fault Refusal := issue (subProgram (some addr)) s

/-- R132: Reg0 <- Reg0 + 1; flags updated. -/
def execInc (s : State) : Host.Outcome State Fault Refusal := issue incProgram s

end Sys2Proof.Machine
end

