-- ==== Sys2Proof/Machine/Branch.lean ====
section
/-! DEFINITION. Jumps: JMP, JZ, JN, JNZ, JE, JNE (42_branch.md). -/

namespace Sys2Proof.Machine

/-- The polarity of a conditional jump (R141). -/
inductive Polarity where
  | ifSet
  | ifClear
deriving DecidableEq, Repr

/-- R141: the status-memory slot `kT` that receives the branch target. -/
def targetSlot : Polarity → Slot
  | .ifSet => .one
  | .ifClear => .zero

/-- R141: the status-memory slot `kF` that receives the fall-through address. -/
def fallThroughSlot : Polarity → Slot
  | .ifSet => .zero
  | .ifClear => .one

/-- The conditional-jump schema of R141. -/
def condJumpProgram (i : FlagBit) (p : Polarity) (addr : OperandWord) : List MicroOp :=
  incPc ++ operand addr ++ [.smStoreIn (targetSlot p)] ++ incPc ++
    [.read .pc, .smStoreIn (fallThroughSlot p), .smSelect (.flag i), .store .pc]

/-- JMP (R140). -/
def jmpProgram (addr : OperandWord) : List MicroOp := incPc ++ operand addr ++ [.store .pc]

/-- JZ (R142). -/
def jzProgram (addr : OperandWord) : List MicroOp := condJumpProgram .zero .ifSet addr

/-- JN (R143). -/
def jnProgram (addr : OperandWord) : List MicroOp := condJumpProgram .negative .ifSet addr

/-- JNZ (R144). -/
def jnzProgram (addr : OperandWord) : List MicroOp := condJumpProgram .zero .ifClear addr

/-- JE (R145): a copy of JZ's. -/
def jeProgram (addr : OperandWord) : List MicroOp := condJumpProgram .zero .ifSet addr

/-- JNE (R146): a copy of JNZ's. -/
def jneProgram (addr : OperandWord) : List MicroOp := condJumpProgram .zero .ifClear addr

/-- R140: PC <- addr. -/
def execJmp (addr : Int) (s : State) : Host.Outcome State Fault Refusal := issue (jmpProgram (some addr)) s

/-- R142: PC <- addr if Zero flag set, else next instruction. -/
def execJz (addr : Int) (s : State) : Host.Outcome State Fault Refusal := issue (jzProgram (some addr)) s

/-- R143: PC <- addr if Negative flag set, else next instruction. -/
def execJn (addr : Int) (s : State) : Host.Outcome State Fault Refusal := issue (jnProgram (some addr)) s

/-- R144: PC <- addr if Zero flag clear, else next instruction. -/
def execJnz (addr : Int) (s : State) : Host.Outcome State Fault Refusal := issue (jnzProgram (some addr)) s

/-- R145: as JZ. -/
def execJe (addr : Int) (s : State) : Host.Outcome State Fault Refusal := issue (jeProgram (some addr)) s

/-- R146: as JNZ. -/
def execJne (addr : Int) (s : State) : Host.Outcome State Fault Refusal := issue (jneProgram (some addr)) s

end Sys2Proof.Machine
end

