-- ==== Sys2Proof/Machine/CallRet.lean ====
section
/-! DEFINITION. Subroutine call and return: CALL, RET (45_call_ret.md). -/

namespace Sys2Proof.Machine

/-- CALL (R170): the target is parked in `sm[1]`, and `PC`, advanced to the next instruction, drives the return
address onto the bus. -/
def callProgram (addr : OperandWord) : List MicroOp :=
  incPc ++ operand addr ++ [.smStoreIn .one] ++ incPc ++
    [.stkDecTop, .read .stkTop, .memStore, .read .pc, .memStore, .smSelect (.const true), .store .pc]

/-- RET (R171). -/
def retProgram : List MicroOp :=
  [.stkCheckNotEmpty, .read .stkTop, .memRead, .stkIncTop, .store .pc]

/-- R170: push(PC+2); PC <- addr. -/
def execCall (addr : Int) (s : State) : Host.Outcome State Fault Refusal := issue (callProgram (some addr)) s

/-- R171: PC <- pop(). -/
def execRet (s : State) : Host.Outcome State Fault Refusal := issue retProgram s

end Sys2Proof.Machine
end

