-- ==== Sys2Proof/Machine/MemoryOps.lean ====
section
/-! DEFINITION. Loads, stores and memory increment: READ, STORE, LDI, INCMEM (43_memory_ops.md). -/

namespace Sys2Proof.Machine

/-- READ (R150). -/
def readProgram (addr : OperandWord) : List MicroOp :=
  incPc ++ operand addr ++ [.memRead, .store .reg0] ++ incPc

/-- STORE (R151). -/
def storeProgram (addr : OperandWord) : List MicroOp :=
  incPc ++ operand addr ++ [.memStore, .read .reg0, .memStore] ++ incPc

/-- LDI (R152). -/
def ldiProgram (imm : OperandWord) : List MicroOp := incPc ++ operand imm ++ [.store .reg0] ++ incPc

/-- INCMEM (R153): the operand is read twice, Reg0 is the carrier and is restored. -/
def incmemProgram (addr : OperandWord) : List MicroOp :=
  incPc ++ memoryOperand addr ++ [.alu .inc, .aluInternalReadOperand .one, .internalStore .reg0] ++
    operand addr ++ [.memStore, .read .reg0, .memStore, .aluInternalReadOperand .zero, .internalStore .reg0] ++ incPc

/-- R150: Reg0 <- mem[addr]. -/
def execRead (addr : Int) (s : State) : Host.Outcome State Fault Refusal := issue (readProgram (some addr)) s

/-- R151: mem[addr] <- Reg0. -/
def execStore (addr : Int) (s : State) : Host.Outcome State Fault Refusal := issue (storeProgram (some addr)) s

/-- R152: Reg0 <- imm. -/
def execLdi (imm : Int) (s : State) : Host.Outcome State Fault Refusal := issue (ldiProgram (some imm)) s

/-- R153: mem[addr] <- mem[addr] + 1. -/
def execIncmem (addr : Int) (s : State) : Host.Outcome State Fault Refusal := issue (incmemProgram (some addr)) s

end Sys2Proof.Machine
end

