-- ==== Sys2Proof/Machine/RegisterOps.lean ====
section
/-! DEFINITION. Register-operand instructions: MOVEREGREG, ADDREGREG, SUBREGREG, ADDREGMEM, SUBREGMEM, CMP
(44_register_ops.md). -/

namespace Sys2Proof.Machine

/-- MOVEREGREG (R160). -/
def moveregregProgram (regA regB : OperandWord) : List MicroOp :=
  registerPair regA regB ++ [.aluInternalReadOperand .zero, .demuxInternalStore] ++ incPc

/-- The microprogram of R161, with the ALU operation of step 11 left open (R162). -/
def regRegProgram (op : AluOp) (regA regB : OperandWord) : List MicroOp :=
  registerPair regA regB ++
    [.demuxInternalRead, .aluStoreOperand .one, .alu op, .aluInternalReadOperand .one, .flagsUpdate,
      .demuxInternalStore] ++ incPc

/-- ADDREGREG (R161). -/
def addregregProgram (regA regB : OperandWord) : List MicroOp := regRegProgram .add regA regB

/-- SUBREGREG (R162). -/
def subregregProgram (regA regB : OperandWord) : List MicroOp := regRegProgram .sub regA regB

/-- The microprogram of R163, with the ALU operation of step 16 left open (R164). -/
def regMemProgram (op : AluOp) (regA addr : OperandWord) : List MicroOp :=
  incPc ++ registerOperand regA ++ incPc ++ memoryOperand addr ++
    [.aluInternalReadOperand .zero, .internalStore .reg0, .demuxInternalRead, .aluStoreOperand .zero, .alu op,
      .aluInternalReadOperand .one, .demuxInternalStore] ++ incPc

/-- ADDREGMEM (R163). -/
def addregmemProgram (regA addr : OperandWord) : List MicroOp := regMemProgram .add regA addr

/-- SUBREGMEM (R164). -/
def subregmemProgram (regA addr : OperandWord) : List MicroOp := regMemProgram .sub regA addr

/-- CMP (R165): flags only, no store. -/
def cmpProgram (regA regB : OperandWord) : List MicroOp :=
  registerPair regA regB ++
    [.demuxInternalRead, .aluStoreOperand .one, .alu .compare, .aluInternalReadOperand .one, .flagsUpdate] ++ incPc

/-- R160: regB <- regA. -/
def execMoveregreg (regA regB : Int) (s : State) : Host.Outcome State Fault Refusal :=
  issue (moveregregProgram (some regA) (some regB)) s

/-- R161: regB <- regA + regB; flags updated. -/
def execAddregreg (regA regB : Int) (s : State) : Host.Outcome State Fault Refusal :=
  issue (addregregProgram (some regA) (some regB)) s

/-- R162: regB <- regA - regB; flags updated. -/
def execSubregreg (regA regB : Int) (s : State) : Host.Outcome State Fault Refusal :=
  issue (subregregProgram (some regA) (some regB)) s

/-- R163: regA <- regA + mem[addr]. -/
def execAddregmem (regA addr : Int) (s : State) : Host.Outcome State Fault Refusal :=
  issue (addregmemProgram (some regA) (some addr)) s

/-- R164: regA <- regA - mem[addr]. -/
def execSubregmem (regA addr : Int) (s : State) : Host.Outcome State Fault Refusal :=
  issue (subregmemProgram (some regA) (some addr)) s

/-- R165: flags <- compare(regA, regB); no store. -/
def execCmp (regA regB : Int) (s : State) : Host.Outcome State Fault Refusal :=
  issue (cmpProgram (some regA) (some regB)) s

end Sys2Proof.Machine
end

