-- ==== Sys2Proof/Machine/Dispatch.lean ====
section
/-! DEFINITION. The dispatch on the decoded instruction (40_microops.md R111, 30_encoding.md R75). -/

namespace Sys2Proof.Machine

def exec (i : Instr) (s : State) : Host.Outcome State Fault Refusal :=
  match i with
  | .add addr => Sys2Proof.Machine.execAdd addr s
  | .sub addr => Sys2Proof.Machine.execSub addr s
  | .jmp addr => Sys2Proof.Machine.execJmp addr s
  | .jz addr => Sys2Proof.Machine.execJz addr s
  | .jn addr => Sys2Proof.Machine.execJn addr s
  | .read addr => Sys2Proof.Machine.execRead addr s
  | .store addr => Sys2Proof.Machine.execStore addr s
  | .ldi imm => Sys2Proof.Machine.execLdi imm s
  | .inc => Sys2Proof.Machine.execInc s
  | .moveregreg regA regB => Sys2Proof.Machine.execMoveregreg regA regB s
  | .call addr => Sys2Proof.Machine.execCall addr s
  | .ret => Sys2Proof.Machine.execRet s
  | .addregreg regA regB => Sys2Proof.Machine.execAddregreg regA regB s
  | .subregreg regA regB => Sys2Proof.Machine.execSubregreg regA regB s
  | .jnz addr => Sys2Proof.Machine.execJnz addr s
  | .incmem addr => Sys2Proof.Machine.execIncmem addr s
  | .addregmem regA addr => Sys2Proof.Machine.execAddregmem regA addr s
  | .subregmem regA addr => Sys2Proof.Machine.execSubregmem regA addr s
  | .cmp regA regB => Sys2Proof.Machine.execCmp regA regB s
  | .je addr => Sys2Proof.Machine.execJe addr s
  | .jne addr => Sys2Proof.Machine.execJne addr s

end Sys2Proof.Machine
end

