-- ==== Sys2Proof/Machine/Fetch.lean ====
section
/-! DEFINITION. Fetch, decode and dispatch (40_microops.md R110, R111, R117), the control store of the 21
microprograms as the control unit issues them from memory, and the placing of an instruction where it is fetched. -/

namespace Sys2Proof.Machine

/-- FETCH then the micro-operation of DECODE_DISPATCH (R117). -/
def fetchDecode (s : State) : State := runMicro (fetchSequence ++ decodeSequence) s

/-- What decoding reads after FETCH and `IR.internalRead`: the opcode on `IBA` (R111), and the words that follow it
in memory (R70). A word beyond `MEM_SIZE - 1` is given as the blank value: its OPERAND raises before it is used
(R181; log 10). -/
def fetchedWords (s : State) : List Int := [s.iba, s.cell (s.pc + 1), s.cell (s.pc + 2)]

/-- The dispatch of R111: the microprogram of the decoded instruction, or the clean halt of R185. -/
def dispatch (s : State) : Host.Outcome State Fault Refusal :=
  match decode (fetchedWords s) with
  | .ok (i, _) => exec i s
  | .error _ => .next s.halt

/-- One instruction step of a RUNNING machine (R117). -/
def instructionStep (s : State) : Host.Outcome State Fault Refusal :=
  let f := fetchDecode s
  match f.run with
  | .running => dispatch f
  | _ => .next f

/-- One step, as the host asks for it. An ill-formed configuration and a pending address phase at an instruction
boundary are refused (93_implementation_defined.md U9, U2; log 9); a terminal state has no step (R117). -/
def hostStep (s : State) : Host.Outcome State Fault Refusal :=
  if s.cfg.WF then
    match s.run with
    | .halted => .fault .halted
    | .faulted k v => .fault (.faulted k v)
    | .running => if s.pend = none then instructionStep s else .refused .pendingStoreAtBoundary
  else .refused .illFormedConfiguration

/-- The control store (R26): the microprogram of each opcode, every operand read from memory. -/
def microprogram : Nat → Option (List MicroOp)
  | 0 => some (addProgram none)
  | 1 => some (subProgram none)
  | 2 => some (jmpProgram none)
  | 3 => some (jzProgram none)
  | 4 => some (jnProgram none)
  | 5 => some (readProgram none)
  | 6 => some (storeProgram none)
  | 7 => some (ldiProgram none)
  | 8 => some incProgram
  | 9 => some (moveregregProgram none none)
  | 10 => some (callProgram none)
  | 11 => some retProgram
  | 12 => some (addregregProgram none none)
  | 13 => some (subregregProgram none none)
  | 14 => some (jnzProgram none)
  | 15 => some (incmemProgram none)
  | 16 => some (addregmemProgram none none)
  | 17 => some (subregmemProgram none none)
  | 18 => some (cmpProgram none none)
  | 19 => some (jeProgram none)
  | 20 => some (jneProgram none)
  | _ => none

/-- Micro-operations of a whole instruction step of an opcode, fetch and decode included (R118); for any other opcode
the halt's. -/
def microOpCount (opcode : Nat) : Nat :=
  (fetchSequence ++ decodeSequence ++ (microprogram opcode).getD []).length

/-- Words put into consecutive cells from address `a`, those outside memory left out. -/
def placeWords : List Int → Int → State → State
  | [], _, s => s
  | v :: vs, a, s => placeWords vs (a + 1) (if ValidAddress s.cfg a then s.writeCell a (wrap s.cfg.W v) else s)

end Sys2Proof.Machine
end

