-- ==== Sys2Proof/Machine/Step.lean ====
section
/-! DEFINITION. One step of the machine, and the placing of an instruction where the next step fetches it. -/

namespace Sys2Proof.Machine

/-- One instruction step (40_microops.md R117). -/
def step : State → Host.Outcome State Fault Refusal := hostStep

/-- `s` with the instruction of the table bits `w` stored at `PC`, its operand words after it, so that the next step
fetches and runs it. It stands for the loader's work (log 11). -/
def State.withFetchWord (s : State) (nbits w : Nat) : State := placeWords (tableWords nbits w) s.pc s

end Sys2Proof.Machine
end

