-- ==== Sys2Proof/Machine/Architecture.lean ====
section
/-! DEFINITION. The architectural level of description (00_scope.md R9 (1)): the architectural state, and the
architectural pseudocode of each instruction rule, read straight from memory. The machine's meanings are the
microprograms; that the two levels agree is a statement for the provers. -/

namespace Sys2Proof.Machine

/-- The architectural state of 40_microops.md R112 (`x[i]`, `PC`, `FLAGS`, `StkTop`, `mem`, `run`), with the two
constants `StkBot` and the configuration. -/
structure ArchState where
  cfg : Config
  x : List Int
  pc : Int
  flags : Int
  stkTop : Int
  stkBot : Int
  mem : Memory
  run : RunState
deriving DecidableEq, Repr

/-- The architectural part of a state. -/
def State.arch (s : State) : ArchState :=
  { cfg := s.cfg, x := s.x, pc := s.pc, flags := s.flags, stkTop := s.stkTop, stkBot := s.stkBot, mem := s.mem, run := s.run }

/-- How the architectural pseudocode of an instruction ends. -/
inductive ArchResult where
  | done (t : ArchState)
  | raised (kind : ErrorKind) (value : Int)
deriving DecidableEq, Repr

/-- `MemRead(a, 1)` (R8, R42). -/
def archMemRead (t : ArchState) (a : Int) (k : Int → ArchResult) : ArchResult :=
  if ValidAddress t.cfg a then k (cellRead t.mem a.toNat) else .raised .outOfBoundsAddress a

/-- `MemWrite(a, 1, v)` (R8, R45). -/
def archMemWrite (t : ArchState) (a v : Int) (k : ArchState → ArchResult) : ArchResult :=
  if ValidAddress t.cfg a then k { t with mem := cellWrite t.mem a.toNat v } else .raised .outOfBoundsAddress a

/-- "`if not (0 <= id < NREGS) raise InvalidRegisterId(id)`" (44_register_ops.md). -/
def archRegister (t : ArchState) (id : Int) (k : Nat → ArchResult) : ArchResult :=
  if ValidRegister t.cfg id then k id.toNat else .raised .invalidRegisterId id

/-- `x[i]`. -/
def ArchState.reg (t : ArchState) (i : Nat) : Int := t.x.getD i 0

/-- `x[i] <- v`. -/
def ArchState.setReg (t : ArchState) (i : Nat) (v : Int) : ArchState := { t with x := t.x.set i v }

/-- `SetFlags(r)` (R108). -/
def ArchState.setFlags (t : ArchState) (r : Int) : ArchState := { t with flags := flagsAfter t.flags r }

/-- `pc <- target`, the last line of every rule. -/
def ArchState.goto (t : ArchState) (target : Int) : ArchResult := .done { t with pc := target }

/-- R130, R131: `f` is the operation before `wrap`. -/
def archAccMem (f : Int → Int → Int) (t : ArchState) : ArchResult :=
  archMemRead t (t.pc + 1) fun addr =>
  archMemRead t addr fun m =>
  let r := wrap t.cfg.W (f (t.reg 0) m)
  ((t.setReg 0 r).setFlags r).goto (t.pc + 2)

/-- R132. -/
def archInc (t : ArchState) : ArchResult :=
  let r := wrap t.cfg.W (t.reg 0 + 1)
  ((t.setReg 0 r).setFlags r).goto (t.pc + 1)

/-- R140. -/
def archJmp (t : ArchState) : ArchResult := archMemRead t (t.pc + 1) fun addr => t.goto addr

/-- R141 to R146: jump when flag bit `i` is `b`. -/
def archCondJump (i : FlagBit) (b : Bool) (t : ArchState) : ArchResult :=
  archMemRead t (t.pc + 1) fun addr => t.goto (if flagGet t.flags i = b then addr else t.pc + 2)

/-- R150. -/
def archReadInstr (t : ArchState) : ArchResult :=
  archMemRead t (t.pc + 1) fun addr =>
  archMemRead t addr fun m => (t.setReg 0 m).goto (t.pc + 2)

/-- R151. -/
def archStore (t : ArchState) : ArchResult :=
  archMemRead t (t.pc + 1) fun addr =>
  archMemWrite t addr (t.reg 0) fun u => u.goto (t.pc + 2)

/-- R152. -/
def archLdi (t : ArchState) : ArchResult :=
  archMemRead t (t.pc + 1) fun imm => (t.setReg 0 imm).goto (t.pc + 2)

/-- R153. -/
def archIncmem (t : ArchState) : ArchResult :=
  archMemRead t (t.pc + 1) fun addr =>
  archMemRead t addr fun m =>
  archMemWrite t addr (wrap t.cfg.W (m + 1)) fun u => u.goto (t.pc + 2)

/-- The register operands of R160, R161, R162, R165, `regA` checked before `regB` is read (R166). -/
def archRegPair (t : ArchState) (k : Nat → Nat → ArchResult) : ArchResult :=
  archMemRead t (t.pc + 1) fun ia =>
  archRegister t ia fun a =>
  archMemRead t (t.pc + 2) fun ib =>
  archRegister t ib fun b => k a b

/-- R160. -/
def archMoveregreg (t : ArchState) : ArchResult :=
  archRegPair t fun a b => (t.setReg b (t.reg a)).goto (t.pc + 3)

/-- R161, R162. -/
def archRegReg (f : Int → Int → Int) (t : ArchState) : ArchResult :=
  archRegPair t fun a b =>
  let r := wrap t.cfg.W (f (t.reg a) (t.reg b))
  ((t.setReg b r).setFlags r).goto (t.pc + 3)

/-- R165. -/
def archCmp (t : ArchState) : ArchResult :=
  archRegPair t fun a b => (t.setFlags (wrap t.cfg.W (t.reg a - t.reg b))).goto (t.pc + 3)

/-- R163, R164. -/
def archRegMem (f : Int → Int → Int) (t : ArchState) : ArchResult :=
  archMemRead t (t.pc + 1) fun ia =>
  archRegister t ia fun a =>
  archMemRead t (t.pc + 2) fun addr =>
  archMemRead t addr fun m => (t.setReg a (wrap t.cfg.W (f (t.reg a) m))).goto (t.pc + 3)

/-- R170. -/
def archCall (t : ArchState) : ArchResult :=
  archMemRead t (t.pc + 1) fun addr =>
  if t.stkTop - 1 < t.stkBot then .raised .stackOverflow t.stkTop
  else archMemWrite { t with stkTop := t.stkTop - 1 } (t.stkTop - 1) (t.pc + 2) fun u => u.goto addr

/-- R171. -/
def archRet (t : ArchState) : ArchResult :=
  if t.stkTop = t.cfg.stackTopInit then .raised .stackUnderflow t.stkTop
  else archMemRead t t.stkTop fun v => { t with stkTop := t.stkTop + 1 }.goto v

/-- The architectural rule of each opcode (30_encoding.md R75). -/
def archInstruction : Nat → Option (ArchState → ArchResult)
  | 0 => some (archAccMem (· + ·))
  | 1 => some (archAccMem (· - ·))
  | 2 => some archJmp
  | 3 => some (archCondJump .zero true)
  | 4 => some (archCondJump .negative true)
  | 5 => some archReadInstr
  | 6 => some archStore
  | 7 => some archLdi
  | 8 => some archInc
  | 9 => some archMoveregreg
  | 10 => some archCall
  | 11 => some archRet
  | 12 => some (archRegReg (· + ·))
  | 13 => some (archRegReg (· - ·))
  | 14 => some (archCondJump .zero false)
  | 15 => some archIncmem
  | 16 => some (archRegMem (· + ·))
  | 17 => some (archRegMem (· - ·))
  | 18 => some archCmp
  | 19 => some (archCondJump .zero true)
  | 20 => some (archCondJump .zero false)
  | _ => none

/-- One instruction step of a RUNNING machine at the architectural level (R117, R77). -/
def archStep (t : ArchState) : ArchResult :=
  archMemRead t t.pc fun op =>
  if 0 ≤ op then
    match archInstruction op.toNat with
    | some rule => rule t
    | none => .done { t with run := .halted }
  else .done { t with run := .halted }

end Sys2Proof.Machine
end

