-- ==== Sys2Proof/Machine/HostPort.lean ====
section
/-! DEFINITION. The host interface (70_reset_and_hazards.md): reset from a configuration and an image, run control,
the inspection surface, the stack's host operations. -/

namespace Sys2Proof.Machine

/-- A machine image: "an ordered sequence of (address, value) integer pairs" (R201). -/
abbrev Image := List (Int × Int)

/-- R201: every address lies in `[0, MEM_SIZE)`, no address is named twice (U11), and every value is a Word. -/
abbrev ImageFits (c : Config) (image : Image) : Prop :=
  (∀ p ∈ image, ValidAddress c p.1 ∧ Fits c.W p.2) ∧ (image.map Prod.fst).Nodup

/-- Memory after loading (R203: "after loading, `mem[i]` equals the i-th supplied value"). -/
def loadImage : Image → Memory
  | [] => []
  | (a, v) :: rest => cellWrite (loadImage rest) a.toNat v

/-- Reset (R200, R201): a launch with an ill-formed configuration or an image that does not fit is refused
(U9, U11; log 13). -/
def launch (c : Config) (image : Image) : Host.Outcome State Fault Refusal :=
  if c.WF then
    if ImageFits c image then .next (State.resetWith c (loadImage image)) else .refused .imageDoesNotFit
  else .refused .illFormedConfiguration

/-- R204 (c): "issue steps until `run` is not `RUNNING`", at most `fuel` of them. -/
def runToHalt : Nat → State → Host.Outcome State Fault Refusal
  | 0, s => .next s
  | fuel + 1, s =>
    match s.run with
    | .running =>
      match step s with
      | .next t => runToHalt fuel t
      | .fault r => .fault r
      | .refused r => .refused r
    | _ => .next s

/-- The inspection surface (R207): "read-only accessors for every register's current value, the full memory contents,
the current bus contents, and a boolean halted flag". -/
structure Inspection where
  pc : Int
  ir : Int
  x : List Int
  flags : Int
  stkTop : Int
  stkBot : Int
  /-- `mem[0 .. MEM_SIZE-1]` -/
  mem : List Int
  ext : Int
  iba : Int
  ibb : Int
  /-- `run == HALTED`; false after a fault -/
  halted : Bool
deriving DecidableEq, Repr

/-- R207: reading the inspection surface "changes nothing". -/
def inspect (s : State) : Inspection :=
  { pc := s.pc, ir := s.ir, x := s.x, flags := s.flags, stkTop := s.stkTop, stkBot := s.stkBot
    mem := (List.range s.cfg.memSize).map (cellRead s.mem)
    ext := s.ext, iba := s.iba, ibb := s.ibb
    halted := s.run = .halted }

/-- R206: the stack's `peek()`, "returns the address at Top without mutating it". -/
def stackPeek (s : State) : Int := s.stkTop

/-- R206: what the stack's `reset()` does, "`StkTop <- STACK_TOP_INIT`, memory untouched". -/
def restoreTop (s : State) : State := { s with stkTop := s.cfg.stackTopInit }

/-- The machine has not been started: everything but memory is as reset leaves it (R200, R27). A step never answers such
a state (`stackReset_after_step`), so this tells a machine at reset from one whose run has begun or ended. -/
abbrev NotStarted (s : State) : Prop := s = State.resetWith s.cfg s.mem

/-- R206: the stack's `reset()` asked for by the host. It "is part of machine reset"; of a machine that has been
started, running or ended, it is refused (R204, 93_implementation_defined.md U10; log 14). -/
def stackReset (s : State) : Host.Outcome State Fault Refusal :=
  if NotStarted s then .next (restoreTop s) else .refused .stackResetAfterStart

end Sys2Proof.Machine
end

