-- ==== Sys2Proof/Safety.lean ====
section
/-! DEFINITION. Which states are well-formed, which a run reaches, and how a run ends: the terms the statements use. -/

namespace Sys2Proof.Machine

/-- Every listed cell exists and holds a Word (10_state.md R25, 20_memory.md R40). -/
abbrev MemoryFits (c : Config) (m : Memory) : Prop := ∀ p ∈ m, p.1 < c.memSize ∧ Fits c.W p.2

/-- The file has `NREGS` registers of one Word each (R10). -/
abbrev State.RegistersOk (s : State) : Prop := s.x.length = s.cfg.nregs ∧ ∀ v ∈ s.x, Fits s.cfg.W v

/-- Every one-Word element holds a Word: `PC`, `IR`, the buses, the ALU cells, the status memory (R12 to R21). -/
abbrev State.CellsFit (s : State) : Prop :=
  Fits s.cfg.W s.pc ∧ Fits s.cfg.W s.ir ∧ Fits s.cfg.W s.ext ∧ Fits s.cfg.W s.iba ∧ Fits s.cfg.W s.ibb ∧
  Fits s.cfg.W s.acc0 ∧ Fits s.cfg.W s.acc1 ∧ Fits s.cfg.W s.sm0 ∧ Fits s.cfg.W s.sm1

/-- R14: "the Word value of `FLAGS` is always 0, 1 (`Z`) or 2 (`N`)". -/
abbrev State.FlagsOk (s : State) : Prop := s.flags = 0 ∨ s.flags = 1 ∨ s.flags = 2

/-- R17: `StkBot` holds `STACK_BOTTOM`, and "The invariant `StkBot <= StkTop <= STACK_TOP_INIT` holds". -/
abbrev State.StackOk (s : State) : Prop :=
  s.stkBot = s.cfg.stackBottom ∧ s.stkBot ≤ s.stkTop ∧ s.stkTop ≤ s.cfg.stackTopInit

/-- The well-formed states: those a machine of a well-formed configuration can be in at an instruction boundary.
`pend = none` is R19's "In every state at an instruction boundary `pend = none`"; `sel` lies in `[0, NREGS)` (R22). -/
abbrev State.WF (s : State) : Prop :=
  s.cfg.WF ∧ s.RegistersOk ∧ s.CellsFit ∧ s.FlagsOk ∧ s.StackOk ∧
  Memory.wf s.mem ∧ MemoryFits s.cfg s.mem ∧ s.pend = none ∧ s.sel < s.cfg.nregs

/-- The states a run reaches from a launch (R204). -/
inductive Reachable (c : Config) (image : Image) : State → Prop where
  | start {s : State} : launch c image = .next s → Reachable c image s
  | next {s t : State} : Reachable c image s → step s = .next t → Reachable c image t

/-- R205: "A run has ended iff `run` is `HALTED` or `FAULTED(K, v)`." -/
def State.ended (s : State) : Bool :=
  match s.run with
  | .running => false
  | .halted | .faulted _ _ => true

/-- R205: "It ended normally iff `run = HALTED`." -/
def State.endedNormally (s : State) : Bool := s.run = .halted

/-- Cell `PC + k` exists and holds the `k`-th word, for every word of the list. -/
def HoldsWords (s : State) : Int → List Int → Prop
  | _, [] => True
  | a, w :: ws => ValidAddress s.cfg a ∧ s.cell a = w ∧ HoldsWords s (a + 1) ws

/-- The words of an instruction stand in memory at `PC` (R70). -/
def HoldsAtPc (s : State) (i : Instr) : Prop := HoldsWords s s.pc (encode i)

end Sys2Proof.Machine
end

