-- ==== Sys2Proof/Certificates/Slice0/Obligations.lean ====
section
/-! DEFINITION. The statements for the provers. Each docstring names the rules of spec/ it states or rests on.

Where a statement is about every state it has `State.WF` as a premise: the invariant that holds at reset, that every
launch establishes and that every step keeps (`ResetIsWellFormed`, `LaunchIsWellFormed`, `StepKeepsWellFormed`). -/

open Sys2Proof Sys2Proof.Machine

/-! ### Encoding -/

/-- R70 to R75: at every width, decoding the bits of an instruction gives the instruction back, with every operand at
every value the encoding admits. The memory order of two operands is the spec's own choice (D8; log 7). -/
def Obligations.DecodeOfEncodedBits : Prop :=
  ∀ (W : Nat) (i : Instr), 8 ≤ W → i.WF W → decodeBits W (W * i.format.length) (encodeBits W i) = some i

/-- R71, R74: the bits that decode to an instruction are the bits of that instruction, so no two encodings of one
length share an instruction and no bit is ignored; and what is decoded is well-formed. The whole signed Word
as opcode and the order of two operands are the spec's own choice (D14, D8; log 7). -/
def Obligations.EncodeOfDecodedBits : Prop :=
  ∀ (W w : Nat) (i : Instr), 8 ≤ W → w < 2 ^ (W * maxLength) → decodeBits W (W * maxLength) w = some i →
    i.WF W ∧ encodeBits W i = w % 2 ^ (W * i.format.length)

/-- R71, R77, R79: exactly the Words 0 to 20 are opcodes; every other is rejected by name; and the length taken is
fixed by the opcode alone. That exactly the signed Words 0 to 20 match is the spec's own choice (D14; log 7). -/
def Obligations.OpcodeMapIsComplete : Prop :=
  ∀ op a b : Int,
    (0 ≤ op ∧ op ≤ 20 →
      ∃ i, (i.opcode : Int) = op ∧
        decode [op, a, b] = .ok (i, [a, b].drop (i.format.length - 1)) ∧
        i.format.length = if op = 8 ∨ op = 11 then 1
          else if op = 9 ∨ op = 12 ∨ op = 13 ∨ op = 16 ∨ op = 17 ∨ op = 18 then 3 else 2) ∧
    (¬ (0 ≤ op ∧ op ≤ 20) → decode [op, a, b] = .error (.unrecognizedOpcode op))

/-- 30_encoding.md R75 and the words of 95_test_vectors.md: one word sequence of each family, written out.
The memory order of two operands (R73, D8) and the rejection of a negative Word (R71, D14) are the spec's own choice
(log 7). -/
def Obligations.SampleWordsDecode : Prop :=
  decode [0, 50] = .ok (.add 50, []) ∧
  decode [20, 40] = .ok (.jne 40, []) ∧
  decode [7, -5] = .ok (.ldi (-5), []) ∧
  decode [9, 1, 2] = .ok (.moveregreg 1 2, []) ∧
  decode [17, 3, 50] = .ok (.subregmem 3 50, []) ∧
  decode [11] = .ok (.ret, []) ∧
  decodeTableWord 64 (2 ^ 32 * (2 ^ 32 - 5) + 7) = some (.ldi (-5)) ∧
  decode [-1] = .error (.unrecognizedOpcode (-1))

/-! ### Micro-operations -/

/-- R42: `MEM.read`; `MemRead(a, 1)` is this operation with `a` on the bus; reading an address twice with no write
between gives the same Word. -/
def Obligations.MemoryReadMicroOp : Prop :=
  ∀ s : State,
    (ValidAddress s.cfg s.ext → microStep .memRead s = { s with ext := cellRead s.mem s.ext.toNat }) ∧
    (¬ ValidAddress s.cfg s.ext →
      microStep .memRead s = { s with run := .faulted .outOfBoundsAddress s.ext }) ∧
    ∀ a, s.run = .running →
      memReadAt a s = microStep .memRead (putExt a s) ∧
      (memReadAt a (memReadAt a s)).ext = (memReadAt a s).ext

/-- R43: the address phase of `MEM.store`. That the range check is made here is the spec's own choice (D10; log 7). -/
def Obligations.StoreAddressPhase : Prop :=
  ∀ s : State, s.pend = none →
    (ValidAddress s.cfg s.ext → microStep .memStore s = { s with pend := some s.ext }) ∧
    (¬ ValidAddress s.cfg s.ext →
      microStep .memStore s = { s with run := .faulted .outOfBoundsAddress s.ext })

/-- R44, R45, R46 (a): the data phase writes the pending cell and no other; `MemWrite(a, 1, v)` leaves `read(a) = v`;
two address phases in a row store the second address as data into the first cell and touch no other. The place of the
range check and the outcome of a misused protocol are the spec's own choice (D10, D22; log 7). -/
def Obligations.TwoPhaseStore : Prop :=
  ∀ s : State, Memory.wf s.mem → s.run = .running →
    (∀ a, ValidAddress s.cfg a → s.pend = some a →
      (microStep .memStore s).cell a = s.ext ∧ (microStep .memStore s).pend = none ∧
      (microStep .memStore s).ext = s.ext ∧
      ∀ b, b ≠ a → (microStep .memStore s).cell b = s.cell b) ∧
    (s.pend = none → ∀ a v, ValidAddress s.cfg a →
      (memWriteAt a v s).cell a = v ∧ (memWriteAt a v s).pend = none ∧ (memWriteAt a v s).run = .running ∧
      (memReadAt a (memWriteAt a v s)).ext = v ∧
      ∀ b, b ≠ a → (memWriteAt a v s).cell b = s.cell b) ∧
    (s.pend = none → ∀ a v, ¬ ValidAddress s.cfg a →
      (memWriteAt a v s).run = .faulted .outOfBoundsAddress a ∧ (memWriteAt a v s).mem = s.mem ∧
      (memWriteAt a v s).pend = none) ∧
    (s.pend = none → ∀ a₁ a₂, ValidAddress s.cfg a₁ → ValidAddress s.cfg a₂ →
      let t := microStep .memStore (putExt a₂ (microStep .memStore (putExt a₁ s)))
      t.cell a₁ = a₂ ∧ t.pend = none ∧ ∀ b, b ≠ a₁ → t.cell b = s.cell b)

/-- R102: the four ALU operations, each writing `acc1` alone. That `ALU.compare` works on operands loaded beforehand is
the spec's own choice (D15; log 7). -/
def Obligations.AluOperations : Prop :=
  ∀ s : State,
    microStep (.alu .add) s = { s with acc1 := wrap s.cfg.W (s.acc0 + s.acc1) } ∧
    microStep (.alu .sub) s = { s with acc1 := wrap s.cfg.W (s.acc0 - s.acc1) } ∧
    microStep (.alu .inc) s = { s with acc1 := wrap s.cfg.W (s.acc1 + 1) } ∧
    microStep (.alu .compare) s = { s with acc1 := wrap s.cfg.W (s.acc0 - s.acc1) }

/-- R103: the corner cases of wrap-around, and that a difference wraps to 0 exactly for equal Words. Wrap-around is what
the spec takes where the source leaves overflow open (93_implementation_defined.md U1; log 7). -/
def Obligations.ArithmeticCornerCases : Prop :=
  ∀ W : Nat, 8 ≤ W →
    wrap W ((2 ^ (W - 1) - 1) + 1) = -2 ^ (W - 1) ∧
    wrap W (-2 ^ (W - 1) - 1) = 2 ^ (W - 1) - 1 ∧
    wrap W (0 - -2 ^ (W - 1)) = -2 ^ (W - 1) ∧
    (∀ a, wrap W (a - a) = 0) ∧
    ∀ a b, Fits W a → Fits W b → (wrap W (a - b) = 0 ↔ a = b)

/-- R104, R184: `DEMUX.setValue`; R105, R106: the transfers of the selected register. That the id comes from `EXT` is
the spec's own choice (D17; log 7). -/
def Obligations.DemuxSelectsRegister : Prop :=
  ∀ s : State,
    microStep .demuxInternalRead s = { s with iba := s.reg s.sel } ∧
    microStep .demuxInternalStore s = { s with x := s.x.set s.sel s.ibb } ∧
    (0 ≤ s.ext ∧ s.ext < (s.cfg.nregs : Int) → microStep .demuxSetValue s = { s with sel := s.ext.toNat }) ∧
    (¬ (0 ≤ s.ext ∧ s.ext < (s.cfg.nregs : Int)) →
      microStep .demuxSetValue s = { s with run := .faulted .invalidRegisterId s.ext })

/-- R107: the status memory, and that selecting leaves its cells alone however often it is done. That it sits on `EXT`
is the spec's own choice (D16; log 7). -/
def Obligations.StatusMemorySelects : Prop :=
  ∀ s : State,
    microStep (.smStoreIn .zero) s = { s with sm0 := s.ext } ∧
    microStep (.smStoreIn .one) s = { s with sm1 := s.ext } ∧
    microStep (.smSelect (.const true)) s = { s with ext := s.sm1 } ∧
    microStep (.smSelect (.const false)) s = { s with ext := s.sm0 } ∧
    (∀ i, microStep (.smSelect (.flag i)) s = { s with ext := if flagGet s.flags i then s.sm1 else s.sm0 }) ∧
    (∀ b c, microStep (.smSelect b) (microStep (.smSelect c) s) = microStep (.smSelect b) s)

/-- R108: "Zero = 1 iff result == 0, else 0; Negative = 1 iff result < 0, else 0", for every result and whatever the
flags held; the other bits of `FLAGS` stay (R14, R96), and nothing but `FLAGS` changes. That the result is sampled on
`IBB` is the spec's own choice (D7; log 7). -/
def Obligations.FlagUpdatePolicy : Prop :=
  ∀ s : State,
    ((microStep .flagsUpdate s).flagZ = true ↔ s.ibb = 0) ∧
    ((microStep .flagsUpdate s).flagN = true ↔ s.ibb < 0) ∧
    (∀ k, 2 ≤ k → wordBit (microStep .flagsUpdate s).flags k = wordBit s.flags k) ∧
    { microStep .flagsUpdate s with flags := s.flags } = s

/-- R113, R114, R115: the stack micro-operations, the spec's own rendering of the source's stack (D18; log 7). -/
def Obligations.StackPointerMicroOps : Prop :=
  ∀ s : State,
    (s.stkTop - 1 < s.stkBot → microStep .stkDecTop s = { s with run := .faulted .stackOverflow s.stkTop }) ∧
    (¬ s.stkTop - 1 < s.stkBot → microStep .stkDecTop s = { s with stkTop := s.stkTop - 1 }) ∧
    (s.stkTop = s.cfg.stackTopInit →
      microStep .stkCheckNotEmpty s = { s with run := .faulted .stackUnderflow s.stkTop }) ∧
    (s.stkTop ≠ s.cfg.stackTopInit → microStep .stkCheckNotEmpty s = s) ∧
    microStep .stkIncTop s = { s with stkTop := s.stkTop + 1 }

/-! ### The stack in memory -/

/-- R51: `Push(v)`. The overflow test is `StkTop == StkBot`; otherwise the Word lands in the cell below the old Top
and no other cell changes; it never runs out of memory. The reported value is the spec's own choice (D18; log 7). -/
def Obligations.PushWritesBelowTop : Prop :=
  ∀ (s : State) (v : Int), s.WF → s.run = .running →
    (s.stkTop - 1 < s.stkBot ↔ s.stkTop = s.stkBot) ∧
    (s.stkTop = s.stkBot → push v s = { s with run := .faulted .stackOverflow s.stkTop }) ∧
    (s.stkTop ≠ s.stkBot →
      push v s = { s with stkTop := s.stkTop - 1, ext := v, mem := cellWrite s.mem (s.stkTop - 1).toNat v } ∧
      (push v s).cell (s.stkTop - 1) = v ∧
      ∀ b, b ≠ s.stkTop - 1 → (push v s).cell b = s.cell b)

/-- R52: `Pop()`. The popped cell keeps its contents. The micro-operations and the reported value are the spec's own
choice (D18; log 7). -/
def Obligations.PopReadsTop : Prop :=
  ∀ s : State, s.WF → s.run = .running →
    (s.stkTop = s.cfg.stackTopInit → pop s = { s with run := .faulted .stackUnderflow s.stkTop }) ∧
    (s.stkTop ≠ s.cfg.stackTopInit → pop s = { s with stkTop := s.stkTop + 1, ext := s.cell s.stkTop })

/-- R53, the round-trip property: for any sequence of pushes within the free capacity, the same number of pops gives
the values in reverse order, and Top returns. -/
def Obligations.StackRoundTrip : Prop :=
  ∀ (vs : List Int) (s : State), s.WF → s.run = .running → (vs.length : Int) ≤ s.stkTop - s.stkBot →
    (pushAll vs s).run = .running ∧ (pushAll vs s).stkTop = s.stkTop - vs.length ∧
    (popAll vs.length (pushAll vs s)).1 = vs.reverse ∧
    (popAll vs.length (pushAll vs s)).2.stkTop = s.stkTop ∧
    (popAll vs.length (pushAll vs s)).2.run = .running

/-! ### Reset and the host interface -/

/-- R203, R27, R200: after a launch every cell the image names holds the supplied value, `PC` the entry address, and
all registers and flags are 0, the stack pointers excepted. -/
def Obligations.LoaderContract : Prop :=
  ∀ (c : Config) (image : Image), c.WF → ImageFits c image →
    ∃ s, launch c image = .next s ∧ s.cfg = c ∧
      (∀ p ∈ image, s.cell p.1 = p.2) ∧
      s.pc = c.entry ∧ s.x.length = c.nregs ∧ (∀ j, s.reg j = 0) ∧ s.ir = 0 ∧ s.flags = 0 ∧
      s.ext = 0 ∧ s.iba = 0 ∧ s.ibb = 0 ∧ s.run = .running

/-- The reset values that R27 marks as the spec's own choices (D4, D12, D13; log 5, log 6), not the source's:
the stack pointers, the ALU cells, the status memory, `sel`, `pend`, and 0 in every cell the image does not name. -/
def Obligations.ResetChosenValues : Prop :=
  ∀ (c : Config) (image : Image) (s : State), launch c image = .next s →
    s.stkTop = c.stackTopInit ∧ s.stkBot = c.stackBottom ∧ s.acc0 = 0 ∧ s.acc1 = 0 ∧ s.sm0 = 0 ∧ s.sm1 = 0 ∧
    s.sel = 0 ∧ s.pend = none ∧ ∀ a, a ∉ image.map Prod.fst → s.cell a = 0

/-- R201 and 93_implementation_defined.md U9, U11: exactly what a launch refuses. -/
def Obligations.LaunchRefusals : Prop :=
  ∀ (c : Config) (image : Image),
    (¬ c.WF → launch c image = .refused .illFormedConfiguration) ∧
    (c.WF → ¬ ImageFits c image → launch c image = .refused .imageDoesNotFit) ∧
    (c.WF → ImageFits c image → ∃ s, launch c image = .next s)

/-- `State.reset` is the launch of configuration `T` with the empty image (the model's choice: log 2, log 11), and it
is well-formed. -/
def Obligations.ResetIsWellFormed : Prop :=
  State.reset.WF ∧ ∃ s, launch Config.test [] = .next s ∧ s = State.reset

/-- Every launched machine is well-formed (R5, R10, R14, R17, R19, R22, R27). -/
def Obligations.LaunchIsWellFormed : Prop :=
  ∀ (c : Config) (image : Image) (s : State), launch c image = .next s → s.WF

/-- The invariant: every step keeps it, from every well-formed state (R10 register count, R14 flags value, R17 stack
bounds, R19 no pending store, R22 selected index, every element a Word, memory canonical and within bounds). -/
def Obligations.StepKeepsWellFormed : Prop :=
  ∀ s t : State, s.WF → step s = .next t → t.WF

/-! ### The step -/

/-- R117: when the words at `PC` decode to `i`, the step is FETCH and the first half of DECODE_DISPATCH, then `i`. In
the first clause a word beyond the last cell is read as the blank 0, and in both `exec` is handed the decoded operand
words: this is the model's way (DEDUCED, log 10), and the operand's fault comes before such a word is used. In the
second clause every word of `i` exists and stands in memory. -/
def Obligations.StepRunsDecodedInstruction : Prop :=
  ∀ (s : State), s.WF → s.run = .running →
    (∀ (i : Instr) (rest : List Int), ValidAddress s.cfg s.pc →
      decode [s.cell s.pc, s.cell (s.pc + 1), s.cell (s.pc + 2)] = .ok (i, rest) →
      step s = exec i { s with ext := s.cell s.pc, ir := s.cell s.pc, iba := s.cell s.pc }) ∧
    (∀ i : Instr, HoldsAtPc s i →
      step s = exec i { s with ext := (i.opcode : Int), ir := (i.opcode : Int), iba := (i.opcode : Int) })

/-- R77, R185: an opcode Word outside 0 to 20 halts the machine; only `IR`, `EXT`, `IBA` and `run` change, `PC` still
addresses the Word, and there is no further step. That every signed Word outside 0 to 20 halts, and that `PC` is not
advanced, are the spec's own choice (D14; log 7). -/
def Obligations.StepHaltsOnUnrecognizedOpcode : Prop :=
  ∀ s : State, s.WF → s.run = .running → ValidAddress s.cfg s.pc → ¬ (0 ≤ s.cell s.pc ∧ s.cell s.pc ≤ 20) →
    ∃ t, step s = .next t ∧
      t = { s with ir := s.cell s.pc, ext := s.cell s.pc, iba := s.cell s.pc, run := .halted } ∧
      step t = .fault .halted

/-- R110: FETCH is `PC.read; MEM.read; IR.store`; it puts `mem[PC]` into `IR` and leaves it on `EXT`; from an invalid
`PC` it raises `OutOfBoundsAddress(PC)` with `IR` unchanged, and there the whole step ends. -/
def Obligations.FetchReadsOpcodeOrFaults : Prop :=
  fetchSequence = [.read .pc, .memRead, .store .ir] ∧
  ∀ s : State, s.run = .running →
    (ValidAddress s.cfg s.pc → runMicro fetchSequence s = { s with ir := s.cell s.pc, ext := s.cell s.pc }) ∧
    (¬ ValidAddress s.cfg s.pc →
      runMicro fetchSequence s = { s with ext := s.pc, run := .faulted .outOfBoundsAddress s.pc } ∧
      (s.WF → step s = .next { s with ext := s.pc, run := .faulted .outOfBoundsAddress s.pc }))

/-- R117, R180, R189, R196: "When `run` is `HALTED` or `FAULTED` there is no step"; and the two refusals of
93_implementation_defined.md U9 and U2 (log 9). FAULTED is the spec's own rendering of a fatal error (D11; log 7, log 8). -/
def Obligations.NoStepWhenEnded : Prop :=
  ∀ s : State,
    (s.cfg.WF → s.run = .halted → step s = .fault .halted) ∧
    (∀ k v, s.cfg.WF → s.run = .faulted k v → step s = .fault (.faulted k v)) ∧
    (s.cfg.WF → s.run = .running → s.pend ≠ none → step s = .refused .pendingStoreAtBoundary) ∧
    (¬ s.cfg.WF → step s = .refused .illFormedConfiguration)

/-- R26, R111, R117: a step is exactly the micro-operations FETCH, `IR.internalRead` and the opcode's microprogram,
issued on the state, every operand read from memory: the decoded operands the meanings carry are never anything but
what the control unit reads. -/
def Obligations.StepIsMicroprogramFromMemory : Prop :=
  ∀ (s : State) (program : List MicroOp), s.WF → s.run = .running → ValidAddress s.cfg s.pc →
    0 ≤ s.cell s.pc → microprogram (s.cell s.pc).toNat = some program →
    step s = .next (runMicro (fetchSequence ++ decodeSequence ++ program) s)

/-- R9: "Each instruction is specified twice, and the two agree". The step's effect on the architectural state is that
of the architectural pseudocode; where the pseudocode raises, the step ends FAULTED with that kind and value and only
`PC` may differ besides (R188). The order in which two errors are found is the spec's own choice (D7, D23; log 7). -/
def Obligations.StepRefinesArchitecture : Prop :=
  ∀ s : State, s.WF → s.run = .running →
    match archStep s.arch with
    | .done u => ∃ t, step s = .next t ∧ t.arch = u
    | .raised k v => ∃ t, step s = .next t ∧ t.arch = { s.arch with pc := t.pc, run := .faulted k v }

/-- R112: the effect of a step on the architectural state and `IR` is a function of the architectural state alone; the
residue in the buses, the ALU cells, the status memory and `sel` never influences it. It is a consequence of the
microprograms as the spec wrote them, each so that it "reads no residue" (D7; log 7). -/
def Obligations.ResidueIndependence : Prop :=
  ∀ s₁ s₂ t₁ : State, s₁.WF → s₂.WF → s₁.arch = s₂.arch → s₁.ir = s₂.ir → step s₁ = .next t₁ →
    ∃ t₂, step s₂ = .next t₂ ∧ t₂.arch = t₁.arch ∧ t₂.ir = t₁.ir

/-- R188: at a fault "The only architectural element that differs from its value at the start of the faulting
instruction is `PC`", and no store is left pending (R46). That every fault comes before the first architectural write is
the spec's own choice (D7; log 7): the source does not say what registers hold after a fault
(93_implementation_defined.md U14). -/
def Obligations.FaultsArePrecise : Prop :=
  ∀ (s t : State) (k : ErrorKind) (v : Int), s.WF → step s = .next t → t.run = .faulted k v →
    t.x = s.x ∧ t.flags = s.flags ∧ t.stkTop = s.stkTop ∧ t.mem = s.mem ∧ t.pend = none

/-- R26, R17, R10: no step changes the configuration, `StkBot` or the number of registers. -/
def Obligations.ConfigurationIsConstant : Prop :=
  ∀ s t : State, step s = .next t → t.cfg = s.cfg ∧ t.stkBot = s.stkBot ∧ t.x.length = s.x.length

/-! ### Frames over all instructions, completed or faulted -/

/-- R15 (that INCMEM, ADDREGMEM and SUBREGMEM are not among them: D9; log 7): only ADD, SUB, INC, ADDREGREG,
SUBREGREG and CMP write the flags. -/
def Obligations.FlagWriters : Prop :=
  ∀ (i : Instr) (s t : State), i.opcode ∉ [0, 1, 8, 12, 13, 18] → exec i s = .next t → t.flags = s.flags

/-- R16, R17: only CALL and RET move `StkTop`, and nothing writes `StkBot`. -/
def Obligations.StackPointerWriters : Prop :=
  ∀ (i : Instr) (s t : State), exec i s = .next t →
    (i.opcode ∉ [10, 11] → t.stkTop = s.stkTop) ∧ t.stkBot = s.stkBot

/-- R40: every instruction but STORE, INCMEM and CALL leaves every cell of memory as it was. -/
def Obligations.MemoryWriters : Prop :=
  ∀ (i : Instr) (s t : State), i.opcode ∉ [6, 10, 15] → exec i s = .next t → ∀ a, t.cell a = s.cell a

/-- R11: the general registers an instruction may write are Reg0 for ADD, SUB, READ, LDI, INC; `x[regB]` for
MOVEREGREG, ADDREGREG, SUBREGREG; `x[regA]` for ADDREGMEM, SUBREGMEM; none for the others. -/
def Obligations.RegisterWriters : Prop :=
  ∀ (i : Instr) (s t : State), s.WF → exec i s = .next t →
    match i with
    | .add _ | .sub _ | .read _ | .ldi _ | .inc => ∀ j, j ≠ 0 → t.reg j = s.reg j
    | .moveregreg _ b | .addregreg _ b | .subregreg _ b => ∀ j : Nat, (j : Int) ≠ b → t.reg j = s.reg j
    | .addregmem a _ | .subregmem a _ => ∀ j : Nat, (j : Int) ≠ a → t.reg j = s.reg j
    | .jmp _ | .jz _ | .jn _ | .jnz _ | .je _ | .jne _ | .store _ | .incmem _ | .call _ | .ret | .cmp _ _ => t.x = s.x

/-- R151, R153, R170: the cell STORE, INCMEM and CALL store to (the operand address; for CALL the cell below the old
Top), what it holds if the instruction completes, and that every other cell reads as before. -/
def Obligations.StoredCells : Prop :=
  (∀ (s t : State) (addr : Int), s.WF → exec (.store addr) s = .next t →
    (t.run = .running → t.cell addr = s.reg 0) ∧ ∀ a, a ≠ addr → t.cell a = s.cell a) ∧
  (∀ (s t : State) (addr : Int), s.WF → exec (.incmem addr) s = .next t →
    (t.run = .running → t.cell addr = wrap s.cfg.W (s.cell addr + 1)) ∧ ∀ a, a ≠ addr → t.cell a = s.cell a) ∧
  (∀ (s t : State) (addr : Int), s.WF → exec (.call addr) s = .next t →
    (t.run = .running → t.cell (s.stkTop - 1) = s.pc + 2) ∧ ∀ a, a ≠ s.stkTop - 1 → t.cell a = s.cell a)

/-! ### Accumulator arithmetic -/

/-- R130: ADD completes with exactly this next state (result, flags, `PC`, residue, nothing else), or raises for the
operand word or the data address with exactly the state shown. Order, residue and `PC` at a fault: the spec's own
microprogram (D7, D8; log 7). -/
def Obligations.AddResult : Prop :=
  ∀ (s : State) (addr : Int), s.WF → s.run = .running → ValidAddress s.cfg s.pc →
    let m := s.cell addr
    let r := wrap s.cfg.W (s.reg 0 + m)
    (ValidAddress s.cfg (s.pc + 1) → ValidAddress s.cfg addr →
      exec (.add addr) s = .next
        { s with x := s.x.set 0 r, flags := if r = 0 then 1 else if r < 0 then 2 else 0, pc := s.pc + 2
                 ext := m, iba := s.pc + 1, ibb := s.pc + 2, acc0 := s.reg 0, acc1 := s.pc + 2 }) ∧
    (¬ ValidAddress s.cfg (s.pc + 1) →
      exec (.add addr) s = .next
        { s with pc := s.pc + 1, ext := s.pc + 1, iba := s.reg 0, ibb := s.pc + 1, acc0 := s.reg 0
                 acc1 := s.pc + 1, run := .faulted .outOfBoundsAddress (s.pc + 1) }) ∧
    (ValidAddress s.cfg (s.pc + 1) → ¬ ValidAddress s.cfg addr →
      exec (.add addr) s = .next
        { s with pc := s.pc + 1, ext := addr, iba := s.reg 0, ibb := s.pc + 1, acc0 := s.reg 0
                 acc1 := s.pc + 1, run := .faulted .outOfBoundsAddress addr })

/-- R131: SUB, Reg0 minus the memory Word. Order, residue and `PC` at a fault: the spec's own microprogram
(D7, D8; log 7). -/
def Obligations.SubResult : Prop :=
  ∀ (s : State) (addr : Int), s.WF → s.run = .running → ValidAddress s.cfg s.pc →
    let m := s.cell addr
    let r := wrap s.cfg.W (s.reg 0 - m)
    (ValidAddress s.cfg (s.pc + 1) → ValidAddress s.cfg addr →
      exec (.sub addr) s = .next
        { s with x := s.x.set 0 r, flags := if r = 0 then 1 else if r < 0 then 2 else 0, pc := s.pc + 2
                 ext := m, iba := s.pc + 1, ibb := s.pc + 2, acc0 := s.reg 0, acc1 := s.pc + 2 }) ∧
    (¬ ValidAddress s.cfg (s.pc + 1) →
      exec (.sub addr) s = .next
        { s with pc := s.pc + 1, ext := s.pc + 1, iba := s.reg 0, ibb := s.pc + 1, acc0 := s.reg 0
                 acc1 := s.pc + 1, run := .faulted .outOfBoundsAddress (s.pc + 1) }) ∧
    (ValidAddress s.cfg (s.pc + 1) → ¬ ValidAddress s.cfg addr →
      exec (.sub addr) s = .next
        { s with pc := s.pc + 1, ext := addr, iba := s.reg 0, ibb := s.pc + 1, acc0 := s.reg 0
                 acc1 := s.pc + 1, run := .faulted .outOfBoundsAddress addr })

/-- R132: INC. It cannot fault. Order, residue and `PC` at a fault: the spec's own microprogram
(D7, D8; log 7). -/
def Obligations.IncResult : Prop :=
  ∀ s : State, s.WF → s.run = .running → ValidAddress s.cfg s.pc →
    let r := wrap s.cfg.W (s.reg 0 + 1)
    exec .inc s = .next
      { s with x := s.x.set 0 r, flags := if r = 0 then 1 else if r < 0 then 2 else 0, pc := s.pc + 1
               iba := s.pc, ibb := s.pc + 1, acc1 := s.pc + 1 }

/-! ### Jumps -/

/-- R140, R147: JMP takes any Word as its target, unchecked. Order, residue and `PC` at a fault: the spec's own
microprogram (D7, D8; log 7). -/
def Obligations.JmpResult : Prop :=
  ∀ (s : State) (addr : Int), s.WF → s.run = .running → ValidAddress s.cfg s.pc →
    (ValidAddress s.cfg (s.pc + 1) →
      exec (.jmp addr) s = .next
        { s with pc := addr, ext := addr, iba := s.pc, ibb := s.pc + 1, acc1 := s.pc + 1 }) ∧
    (¬ ValidAddress s.cfg (s.pc + 1) →
      exec (.jmp addr) s = .next
        { s with pc := s.pc + 1, ext := s.pc + 1, iba := s.pc, ibb := s.pc + 1, acc1 := s.pc + 1
                 run := .faulted .outOfBoundsAddress (s.pc + 1) })

/-- R142, R145, R141: JZ and JE jump iff Zero is set, else fall through; both candidates are left in `sm`. Order,
residue and `PC` at a fault: the spec's own microprogram (D7, D8; log 7). -/
def Obligations.JzJeResult : Prop :=
  ∀ (s : State) (addr : Int) (i : Instr), i = .jz addr ∨ i = .je addr →
    s.WF → s.run = .running → ValidAddress s.cfg s.pc →
    let target := if s.flagZ = true then addr else s.pc + 2
    (ValidAddress s.cfg (s.pc + 1) →
      exec i s = .next
        { s with pc := target, ext := target, iba := s.pc + 1, ibb := s.pc + 2, acc1 := s.pc + 2
                 sm0 := s.pc + 2, sm1 := addr }) ∧
    (¬ ValidAddress s.cfg (s.pc + 1) →
      exec i s = .next
        { s with pc := s.pc + 1, ext := s.pc + 1, iba := s.pc, ibb := s.pc + 1, acc1 := s.pc + 1
                 run := .faulted .outOfBoundsAddress (s.pc + 1) })

/-- R143, R141: JN jumps iff Negative is set, else falls through. Order, residue and `PC` at a fault: the spec's own
microprogram (D7, D8; log 7). -/
def Obligations.JnResult : Prop :=
  ∀ (s : State) (addr : Int), s.WF → s.run = .running → ValidAddress s.cfg s.pc →
    let target := if s.flagN = true then addr else s.pc + 2
    (ValidAddress s.cfg (s.pc + 1) →
      exec (.jn addr) s = .next
        { s with pc := target, ext := target, iba := s.pc + 1, ibb := s.pc + 2, acc1 := s.pc + 2
                 sm0 := s.pc + 2, sm1 := addr }) ∧
    (¬ ValidAddress s.cfg (s.pc + 1) →
      exec (.jn addr) s = .next
        { s with pc := s.pc + 1, ext := s.pc + 1, iba := s.pc, ibb := s.pc + 1, acc1 := s.pc + 1
                 run := .faulted .outOfBoundsAddress (s.pc + 1) })

/-- R144, R146, R141: JNZ and JNE jump iff Zero is clear, else fall through; the slots of `sm` are swapped,
which is the spec's own choice (D16; log 7). Order, residue and `PC` at a fault: the spec's own microprogram
(D7, D8; log 7). -/
def Obligations.JnzJneResult : Prop :=
  ∀ (s : State) (addr : Int) (i : Instr), i = .jnz addr ∨ i = .jne addr →
    s.WF → s.run = .running → ValidAddress s.cfg s.pc →
    let target := if s.flagZ = false then addr else s.pc + 2
    (ValidAddress s.cfg (s.pc + 1) →
      exec i s = .next
        { s with pc := target, ext := target, iba := s.pc + 1, ibb := s.pc + 2, acc1 := s.pc + 2
                 sm0 := addr, sm1 := s.pc + 2 }) ∧
    (¬ ValidAddress s.cfg (s.pc + 1) →
      exec i s = .next
        { s with pc := s.pc + 1, ext := s.pc + 1, iba := s.pc, ibb := s.pc + 1, acc1 := s.pc + 1
                 run := .faulted .outOfBoundsAddress (s.pc + 1) })

/-! ### Loads, stores and memory increment -/

/-- R150: READ. Order, residue and `PC` at a fault: the spec's own microprogram
(D7, D8; log 7). -/
def Obligations.ReadResult : Prop :=
  ∀ (s : State) (addr : Int), s.WF → s.run = .running → ValidAddress s.cfg s.pc →
    (ValidAddress s.cfg (s.pc + 1) → ValidAddress s.cfg addr →
      exec (.read addr) s = .next
        { s with x := s.x.set 0 (s.cell addr), pc := s.pc + 2, ext := s.cell addr
                 iba := s.pc + 1, ibb := s.pc + 2, acc1 := s.pc + 2 }) ∧
    (¬ ValidAddress s.cfg (s.pc + 1) →
      exec (.read addr) s = .next
        { s with pc := s.pc + 1, ext := s.pc + 1, iba := s.pc, ibb := s.pc + 1, acc1 := s.pc + 1
                 run := .faulted .outOfBoundsAddress (s.pc + 1) }) ∧
    (ValidAddress s.cfg (s.pc + 1) → ¬ ValidAddress s.cfg addr →
      exec (.read addr) s = .next
        { s with pc := s.pc + 1, ext := addr, iba := s.pc, ibb := s.pc + 1, acc1 := s.pc + 1
                 run := .faulted .outOfBoundsAddress addr })

/-- R151: STORE. The place of the range check is the spec's own choice (D10; log 7). Order, residue and `PC` at a fault:
the spec's own microprogram (D7, D8; log 7). -/
def Obligations.StoreResult : Prop :=
  ∀ (s : State) (addr : Int), s.WF → s.run = .running → ValidAddress s.cfg s.pc →
    (ValidAddress s.cfg (s.pc + 1) → ValidAddress s.cfg addr →
      exec (.store addr) s = .next
        { s with mem := cellWrite s.mem addr.toNat (s.reg 0), pc := s.pc + 2, ext := s.reg 0
                 iba := s.pc + 1, ibb := s.pc + 2, acc1 := s.pc + 2 }) ∧
    (¬ ValidAddress s.cfg (s.pc + 1) →
      exec (.store addr) s = .next
        { s with pc := s.pc + 1, ext := s.pc + 1, iba := s.pc, ibb := s.pc + 1, acc1 := s.pc + 1
                 run := .faulted .outOfBoundsAddress (s.pc + 1) }) ∧
    (ValidAddress s.cfg (s.pc + 1) → ¬ ValidAddress s.cfg addr →
      exec (.store addr) s = .next
        { s with pc := s.pc + 1, ext := addr, iba := s.pc, ibb := s.pc + 1, acc1 := s.pc + 1
                 run := .faulted .outOfBoundsAddress addr })

/-- R152: LDI. Order, residue and `PC` at a fault: the spec's own microprogram
(D7, D8; log 7). -/
def Obligations.LdiResult : Prop :=
  ∀ (s : State) (imm : Int), s.WF → s.run = .running → ValidAddress s.cfg s.pc →
    (ValidAddress s.cfg (s.pc + 1) →
      exec (.ldi imm) s = .next
        { s with x := s.x.set 0 imm, pc := s.pc + 2, ext := imm
                 iba := s.pc + 1, ibb := s.pc + 2, acc1 := s.pc + 2 }) ∧
    (¬ ValidAddress s.cfg (s.pc + 1) →
      exec (.ldi imm) s = .next
        { s with pc := s.pc + 1, ext := s.pc + 1, iba := s.pc, ibb := s.pc + 1, acc1 := s.pc + 1
                 run := .faulted .outOfBoundsAddress (s.pc + 1) })

/-- R153: INCMEM. Reg0 and the flags are as before; that the flags are is the spec's own choice (D9; log 7), and so is
the place of the store's range check (D10). Order, residue and `PC` at a fault: the spec's own microprogram
(D7, D8; log 7). -/
def Obligations.IncmemResult : Prop :=
  ∀ (s : State) (addr : Int), s.WF → s.run = .running → ValidAddress s.cfg s.pc →
    let r := wrap s.cfg.W (s.cell addr + 1)
    (ValidAddress s.cfg (s.pc + 1) → ValidAddress s.cfg addr →
      exec (.incmem addr) s = .next
        { s with mem := cellWrite s.mem addr.toNat r, pc := s.pc + 2, ext := r
                 iba := s.pc + 1, ibb := s.pc + 2, acc0 := s.reg 0, acc1 := s.pc + 2 }) ∧
    (¬ ValidAddress s.cfg (s.pc + 1) →
      exec (.incmem addr) s = .next
        { s with pc := s.pc + 1, ext := s.pc + 1, iba := s.reg 0, ibb := s.pc + 1, acc0 := s.reg 0
                 acc1 := s.pc + 1, run := .faulted .outOfBoundsAddress (s.pc + 1) }) ∧
    (ValidAddress s.cfg (s.pc + 1) → ¬ ValidAddress s.cfg addr →
      exec (.incmem addr) s = .next
        { s with pc := s.pc + 1, ext := addr, iba := s.reg 0, ibb := s.pc + 1, acc0 := s.reg 0
                 acc1 := s.pc + 1, run := .faulted .outOfBoundsAddress addr })

/-! ### Register-operand instructions -/

/-- R160: MOVEREGREG. Order, residue and `PC` at a fault: the spec's own microprogram
(D7, D8; log 7). -/
def Obligations.MoveregregResult : Prop :=
  ∀ (s : State) (regA regB : Int), s.WF → s.run = .running →
    ValidAddress s.cfg s.pc → ValidAddress s.cfg (s.pc + 2) → ValidRegister s.cfg regA → ValidRegister s.cfg regB →
    exec (.moveregreg regA regB) s = .next
      { s with x := s.x.set regB.toNat (s.reg regA.toNat), pc := s.pc + 3, ext := regB, sel := regB.toNat
               iba := s.pc + 2, ibb := s.pc + 3, acc0 := s.reg regA.toNat, acc1 := s.pc + 3 }

/-- R161: ADDREGREG. Order, residue and `PC` at a fault: the spec's own microprogram
(D7, D8; log 7). -/
def Obligations.AddregregResult : Prop :=
  ∀ (s : State) (regA regB : Int), s.WF → s.run = .running →
    ValidAddress s.cfg s.pc → ValidAddress s.cfg (s.pc + 2) → ValidRegister s.cfg regA → ValidRegister s.cfg regB →
    let r := wrap s.cfg.W (s.reg regA.toNat + s.reg regB.toNat)
    exec (.addregreg regA regB) s = .next
      { s with x := s.x.set regB.toNat r, flags := if r = 0 then 1 else if r < 0 then 2 else 0, pc := s.pc + 3
               ext := regB, sel := regB.toNat
               iba := s.pc + 2, ibb := s.pc + 3, acc0 := s.reg regA.toNat, acc1 := s.pc + 3 }

/-- R162: SUBREGREG, `x[regA] - x[regB]` into `x[regB]`. Order, residue and `PC` at a fault: the spec's own microprogram
(D7, D8; log 7). -/
def Obligations.SubregregResult : Prop :=
  ∀ (s : State) (regA regB : Int), s.WF → s.run = .running →
    ValidAddress s.cfg s.pc → ValidAddress s.cfg (s.pc + 2) → ValidRegister s.cfg regA → ValidRegister s.cfg regB →
    let r := wrap s.cfg.W (s.reg regA.toNat - s.reg regB.toNat)
    exec (.subregreg regA regB) s = .next
      { s with x := s.x.set regB.toNat r, flags := if r = 0 then 1 else if r < 0 then 2 else 0, pc := s.pc + 3
               ext := regB, sel := regB.toNat
               iba := s.pc + 2, ibb := s.pc + 3, acc0 := s.reg regA.toNat, acc1 := s.pc + 3 }

/-- R165: CMP, flags only. Order, residue and `PC` at a fault: the spec's own microprogram
(D7, D8; log 7). -/
def Obligations.CmpResult : Prop :=
  ∀ (s : State) (regA regB : Int), s.WF → s.run = .running →
    ValidAddress s.cfg s.pc → ValidAddress s.cfg (s.pc + 2) → ValidRegister s.cfg regA → ValidRegister s.cfg regB →
    let r := wrap s.cfg.W (s.reg regA.toNat - s.reg regB.toNat)
    exec (.cmp regA regB) s = .next
      { s with flags := if r = 0 then 1 else if r < 0 then 2 else 0, pc := s.pc + 3
               ext := regB, sel := regB.toNat
               iba := s.pc + 2, ibb := s.pc + 3, acc0 := s.reg regA.toNat, acc1 := s.pc + 3 }

/-- R165: after CMP, Zero is set exactly when the two registers hold the same Word, for all Words. -/
def Obligations.CmpDecidesEquality : Prop :=
  ∀ (s t : State) (regA regB : Int), s.WF → s.run = .running →
    ValidAddress s.cfg s.pc → ValidAddress s.cfg (s.pc + 2) → ValidRegister s.cfg regA → ValidRegister s.cfg regB →
    exec (.cmp regA regB) s = .next t →
    (t.flagZ = true ↔ s.reg regA.toNat = s.reg regB.toNat) ∧
    (t.flagN = true ↔ wrap s.cfg.W (s.reg regA.toNat - s.reg regB.toNat) < 0)

/-- R163: ADDREGMEM. No flag is written, which is the spec's own choice (D9; log 7). Order, residue and `PC` at a fault:
the spec's own microprogram (D7, D8; log 7). -/
def Obligations.AddregmemResult : Prop :=
  ∀ (s : State) (regA addr : Int), s.WF → s.run = .running →
    ValidAddress s.cfg s.pc → ValidAddress s.cfg (s.pc + 2) → ValidRegister s.cfg regA → ValidAddress s.cfg addr →
    exec (.addregmem regA addr) s = .next
      { s with x := s.x.set regA.toNat (wrap s.cfg.W (s.reg regA.toNat + s.cell addr)), pc := s.pc + 3
               ext := s.cell addr, sel := regA.toNat
               iba := s.pc + 2, ibb := s.pc + 3, acc0 := s.reg regA.toNat, acc1 := s.pc + 3 }

/-- R164: SUBREGMEM. No flag is written, which is the spec's own choice (D9; log 7). Order, residue and `PC` at a fault:
the spec's own microprogram (D7, D8; log 7). -/
def Obligations.SubregmemResult : Prop :=
  ∀ (s : State) (regA addr : Int), s.WF → s.run = .running →
    ValidAddress s.cfg s.pc → ValidAddress s.cfg (s.pc + 2) → ValidRegister s.cfg regA → ValidAddress s.cfg addr →
    exec (.subregmem regA addr) s = .next
      { s with x := s.x.set regA.toNat (wrap s.cfg.W (s.reg regA.toNat - s.cell addr)), pc := s.pc + 3
               ext := s.cell addr, sel := regA.toNat
               iba := s.pc + 2, ibb := s.pc + 3, acc0 := s.reg regA.toNat, acc1 := s.pc + 3 }

/-- R160 to R162, R165, R166, R187: where MOVEREGREG, ADDREGREG, SUBREGREG and CMP raise, in order, and the state each
leaves: the first operand word, `regA`, the second operand word, `regB`. Order, residue and `PC` at a fault: the spec's
own microprogram (D7, D8, D23; log 7). -/
def Obligations.RegisterPairFaults : Prop :=
  ∀ (s : State) (regA regB : Int) (i : Instr),
    i ∈ [.moveregreg regA regB, .addregreg regA regB, .subregreg regA regB, .cmp regA regB] →
    s.WF → s.run = .running → ValidAddress s.cfg s.pc →
    (¬ ValidAddress s.cfg (s.pc + 1) →
      exec i s = .next
        { s with pc := s.pc + 1, ext := s.pc + 1, iba := s.pc, ibb := s.pc + 1, acc1 := s.pc + 1
                 run := .faulted .outOfBoundsAddress (s.pc + 1) }) ∧
    (ValidAddress s.cfg (s.pc + 1) → ¬ ValidRegister s.cfg regA →
      exec i s = .next
        { s with pc := s.pc + 1, ext := regA, iba := s.pc, ibb := s.pc + 1, acc1 := s.pc + 1
                 run := .faulted .invalidRegisterId regA }) ∧
    (ValidAddress s.cfg (s.pc + 1) → ValidRegister s.cfg regA → ¬ ValidAddress s.cfg (s.pc + 2) →
      exec i s = .next
        { s with pc := s.pc + 2, ext := s.pc + 2, iba := s.pc + 1, ibb := s.pc + 2, acc1 := s.pc + 2
                 acc0 := s.reg regA.toNat, sel := regA.toNat, run := .faulted .outOfBoundsAddress (s.pc + 2) }) ∧
    (ValidAddress s.cfg (s.pc + 2) → ValidRegister s.cfg regA → ¬ ValidRegister s.cfg regB →
      exec i s = .next
        { s with pc := s.pc + 2, ext := regB, iba := s.pc + 1, ibb := s.pc + 2, acc1 := s.pc + 2
                 acc0 := s.reg regA.toNat, sel := regA.toNat, run := .faulted .invalidRegisterId regB })

/-- R163, R164, R187: where ADDREGMEM and SUBREGMEM raise, in order, and the state each leaves: the first operand word,
`regA`, the second operand word, the data address. Order, residue and `PC` at a fault: the spec's own microprogram
(D7, D8, D23; log 7). -/
def Obligations.RegisterMemoryFaults : Prop :=
  ∀ (s : State) (regA addr : Int) (i : Instr), i ∈ [.addregmem regA addr, .subregmem regA addr] →
    s.WF → s.run = .running → ValidAddress s.cfg s.pc →
    (¬ ValidAddress s.cfg (s.pc + 1) →
      exec i s = .next
        { s with pc := s.pc + 1, ext := s.pc + 1, iba := s.pc, ibb := s.pc + 1, acc1 := s.pc + 1
                 run := .faulted .outOfBoundsAddress (s.pc + 1) }) ∧
    (ValidAddress s.cfg (s.pc + 1) → ¬ ValidRegister s.cfg regA →
      exec i s = .next
        { s with pc := s.pc + 1, ext := regA, iba := s.pc, ibb := s.pc + 1, acc1 := s.pc + 1
                 run := .faulted .invalidRegisterId regA }) ∧
    (ValidAddress s.cfg (s.pc + 1) → ValidRegister s.cfg regA → ¬ ValidAddress s.cfg (s.pc + 2) →
      exec i s = .next
        { s with pc := s.pc + 2, ext := s.pc + 2, iba := s.reg 0, ibb := s.pc + 2, acc1 := s.pc + 2
                 acc0 := s.reg 0, sel := regA.toNat, run := .faulted .outOfBoundsAddress (s.pc + 2) }) ∧
    (ValidAddress s.cfg (s.pc + 2) → ValidRegister s.cfg regA → ¬ ValidAddress s.cfg addr →
      exec i s = .next
        { s with pc := s.pc + 2, ext := addr, iba := s.reg 0, ibb := s.pc + 2, acc1 := s.pc + 2
                 acc0 := s.reg 0, sel := regA.toNat, run := .faulted .outOfBoundsAddress addr })

/-! ### Call and return -/

/-- R170: CALL. The value reported with StackOverflow, the unchanged `StkTop`, is the spec's own choice (D18; log 7).
Order, residue and `PC` at a fault: the spec's own microprogram
(D7, D8; log 7). -/
def Obligations.CallResult : Prop :=
  ∀ (s : State) (addr : Int), s.WF → s.run = .running → ValidAddress s.cfg s.pc →
    (ValidAddress s.cfg (s.pc + 1) → s.stkTop ≠ s.stkBot →
      exec (.call addr) s = .next
        { s with stkTop := s.stkTop - 1, mem := cellWrite s.mem (s.stkTop - 1).toNat (s.pc + 2), pc := addr
                 ext := addr, sm1 := addr, iba := s.pc + 1, ibb := s.pc + 2, acc1 := s.pc + 2 }) ∧
    (ValidAddress s.cfg (s.pc + 1) → s.stkTop = s.stkBot →
      exec (.call addr) s = .next
        { s with pc := s.pc + 2, ext := addr, sm1 := addr, iba := s.pc + 1, ibb := s.pc + 2, acc1 := s.pc + 2
                 run := .faulted .stackOverflow s.stkTop }) ∧
    (¬ ValidAddress s.cfg (s.pc + 1) →
      exec (.call addr) s = .next
        { s with pc := s.pc + 1, ext := s.pc + 1, iba := s.pc, ibb := s.pc + 1, acc1 := s.pc + 1
                 run := .faulted .outOfBoundsAddress (s.pc + 1) })

/-- R171: RET. The popped Word is whatever the cell at Top holds. The check for an empty stack and the value reported
with StackUnderflow are the spec's own choice (D18; log 7). Order, residue and `PC` at a fault: the spec's own
microprogram (D7, D8; log 7). -/
def Obligations.RetResult : Prop :=
  ∀ s : State, s.WF → s.run = .running →
    (s.stkTop ≠ s.cfg.stackTopInit →
      exec .ret s = .next { s with pc := s.cell s.stkTop, ext := s.cell s.stkTop, stkTop := s.stkTop + 1 }) ∧
    (s.stkTop = s.cfg.stackTopInit →
      exec .ret s = .next { s with run := .faulted .stackUnderflow s.stkTop })

/-- R172: a CALL that completes, then a RET from any well-formed state with the stack and memory the CALL left, puts
`PC` at the instruction immediately following the CALL and `StkTop` where it was before. -/
def Obligations.CallThenRetReturns : Prop :=
  ∀ (s t u : State) (addr : Int), s.WF → exec (.call addr) s = .next t → t.run = .running →
    u.WF → u.run = .running → u.cfg = t.cfg → u.stkTop = t.stkTop → u.mem = t.mem →
    ∃ v, exec .ret u = .next v ∧ v.run = .running ∧ v.pc = s.pc + 2 ∧ v.stkTop = s.stkTop

/-! ### Counts -/

/-- R118 (counts of the spec's own microprograms, D7; log 7, log 15): micro-operations of `FETCH`,
`DECODE_DISPATCH`, `INCPC`, `OPERAND`, of each instruction step by opcode, and of a halt. -/
def Obligations.MicroOpCounts : Prop :=
  fetchSequence.length = 3 ∧ decodeSequence.length = 1 ∧ incPc.length = 5 ∧ (operand none).length = 2 ∧
  (List.range 21).map microOpCount =
    [26, 26, 12, 21, 21, 18, 19, 17, 15, 29, 24, 9, 33, 33, 21, 32, 37, 37, 32, 21, 21] ∧
  ∀ opcode, 21 ≤ opcode → microOpCount opcode = 4
end

