-- ==== Sys2Proof/Laws/Word.lean ====
section
/-! SUPPORT. Lemmas about Words: `wrap` always gives a Word, and leaves a Word as it is. -/

namespace Sys2Proof

theorem two_mul_wordHalf {W : Nat} (hW : 1 ≤ W) : 2 * wordHalf W = ((2 ^ W : Nat) : Int) := by
  obtain ⟨k, rfl⟩ : ∃ k, W = k + 1 := ⟨W - 1, by omega⟩
  simp [wordHalf, pow_succ, mul_comm]

theorem wordHalf_pos (W : Nat) : 0 < wordHalf W := by
  unfold wordHalf
  exact_mod_cast Nat.two_pow_pos (W - 1)

theorem wrap_fits {W : Nat} (hW : 1 ≤ W) (z : Int) : Fits W (wrap W z) := by
  have h2 := two_mul_wordHalf hW
  have hp : 0 < 2 ^ W := Nat.two_pow_pos W
  have hlo := Int.le_bmod (x := z) hp
  have hhi := Int.bmod_lt (x := z) hp
  unfold Fits wrap
  generalize 2 ^ W = m at *
  omega

theorem wrap_of_fits {W : Nat} (hW : 1 ≤ W) {z : Int} (hz : Fits W z) : wrap W z = z := by
  have h2 := two_mul_wordHalf hW
  obtain ⟨hlo, hhi⟩ := hz
  unfold wrap
  generalize 2 ^ W = m at *
  apply Int.bmod_eq_of_le_mul_two <;> omega

theorem wrap_emod (W : Nat) (z : Int) : wrap W z % ((2 ^ W : Nat) : Int) = z % ((2 ^ W : Nat) : Int) := by
  unfold wrap
  exact Int.bmod_emod

theorem wrap_add_right (W : Nat) (a b : Int) : wrap W (a + wrap W b) = wrap W (a + b) := by
  simp [wrap]

theorem wrap_wrap (W : Nat) (z : Int) : wrap W (wrap W z) = wrap W z := by
  simp [wrap]

end Sys2Proof
end

