-- ==== Sys2Proof/Laws/Flags.lean ====
section
/-! SUPPORT. The flags word (10_state.md R14): what `SetFlags` makes of it; and the extensions of R7. -/

namespace Sys2Proof.Machine

/-- R14: "the Word value of `FLAGS` is always 0, 1 (`Z`) or 2 (`N`)". From such a word, `SetFlags(r)` gives 1 for zero,
2 for a negative result and 0 otherwise. -/
theorem flagsAfter_eq {f : Int} (hf : f = 0 ∨ f = 1 ∨ f = 2) (r : Int) :
    flagsAfter f r = if r = 0 then 1 else if r < 0 then 2 else 0 := by
  by_cases hz : r = 0
  · subst hz
    rcases hf with rfl | rfl | rfl <;> decide
  · by_cases hn : r < 0 <;> rcases hf with rfl | rfl | rfl <;> simp [flagsAfter, hz, hn] <;> decide

@[simp] theorem flagGet_zero_of_result (r : Int) :
    flagGet (if r = 0 then 1 else if r < 0 then 2 else 0) .zero = decide (r = 0) := by
  by_cases hz : r = 0
  · subst hz; decide
  · by_cases hn : r < 0 <;> simp only [hz, hn, if_true, if_false] <;> decide

@[simp] theorem flagGet_negative_of_result (r : Int) :
    flagGet (if r = 0 then 1 else if r < 0 then 2 else 0) .negative = decide (r < 0) := by
  by_cases hz : r = 0
  · subst hz; decide
  · by_cases hn : r < 0 <;> simp only [hz, hn, if_true, if_false] <;> decide

/-! ### Extension (R7): always a Word of `W` bits -/

theorem sextN_fits {W : Nat} (hW : 1 ≤ W) (N : Nat) (v : Int) : Fits W (sextN W N v) := wrap_fits hW _

theorem zextN_fits {W : Nat} (hW : 1 ≤ W) (N : Nat) (v : Int) : Fits W (zextN W N v) := wrap_fits hW _

/-- A Word is its own sign extension from `W` bits. -/
theorem sextN_full {W : Nat} (hW : 1 ≤ W) {v : Int} (hv : Fits W v) : sextN W W v = v := by
  rw [sextN, wrap_of_fits hW hv, wrap_of_fits hW hv]

/-- A Word is its own zero extension from `W` bits. -/
theorem zextN_full {W : Nat} (hW : 1 ≤ W) {v : Int} (hv : Fits W v) : zextN W W v = v := by
  have h : zextN W W v = wrap W v := Int.emod_bmod v _
  rw [h, wrap_of_fits hW hv]

/-- From fewer than `W` bits zero extension gives the unsigned reading of the low `N` bits. -/
theorem zextN_of_lt {W N : Nat} (h : N < W) (v : Int) : zextN W N v = v % ((2 ^ N : Nat) : Int) := by
  have hp : (0 : Int) < ((2 ^ N : Nat) : Int) := by exact_mod_cast Nat.two_pow_pos N
  have hle : ((2 ^ N : Nat) : Int) ≤ wordHalf W := by
    unfold wordHalf
    exact_mod_cast Nat.pow_le_pow_right (n := 2) (by omega) (show N ≤ W - 1 by omega)
  have h0 := Int.emod_nonneg v (ne_of_gt hp)
  have h1 := Int.emod_lt_of_pos v hp
  exact wrap_of_fits (by omega) ⟨by omega, by omega⟩

end Sys2Proof.Machine
end

