-- ==== Sys2Proof/Laws/Memory.lean ====
section
/-! SUPPORT. The laws of main memory: reading what was written, leaving the rest alone, and keeping the canonical
form. -/

namespace Sys2Proof.Machine

theorem cellRead_of_forall_lt {m : Memory} {a : Nat} (h : ∀ p ∈ m, a < p.1) : cellRead m a = blankWord := by
  induction m with
  | nil => rfl
  | cons p rest ih =>
    have hp := h p (by simp)
    simp only [cellRead]
    rw [if_neg (by omega), ih (fun q hq => h q (by simp [hq]))]

/-- What a write can make of an entry: it is the written one, or it was there before. -/
theorem mem_cellWrite {m : Memory} {a : Nat} {v : Int} {p : Nat × Int} (h : p ∈ cellWrite m a v) :
    (p = (a, v) ∧ v ≠ blankWord) ∨ p ∈ m := by
  induction m with
  | nil =>
    simp only [cellWrite] at h
    split at h <;> simp_all
  | cons q rest ih =>
    simp only [cellWrite] at h
    split at h
    · split at h
      · exact .inr h
      · rcases List.mem_cons.mp h with rfl | h
        · exact .inl ⟨rfl, ‹_›⟩
        · exact .inr h
    · split at h
      · split at h
        · exact .inr (by simp [h])
        · rcases List.mem_cons.mp h with rfl | h
          · exact .inl ⟨rfl, ‹_›⟩
          · exact .inr (by simp [h])
      · rcases List.mem_cons.mp h with rfl | h
        · exact .inr (by simp)
        · rcases ih h with h | h
          · exact .inl h
          · exact .inr (by simp [h])

/-- A write keeps the canonical form. -/
theorem cellWrite_wf {m : Memory} (hm : Memory.wf m) (a : Nat) (v : Int) : Memory.wf (cellWrite m a v) := by
  refine ⟨?_, fun p hp => ?_⟩
  · obtain ⟨hs, -⟩ := hm
    induction m with
    | nil => simp only [cellWrite]; split <;> simp
    | cons q rest ih =>
      obtain ⟨hq, hrest⟩ := List.pairwise_cons.mp hs
      simp only [cellWrite]
      split
      · split
        · exact hs
        · refine List.pairwise_cons.mpr ⟨fun p hp => ?_, hs⟩
          rcases List.mem_cons.mp hp with rfl | hp
          · assumption
          · exact lt_trans ‹_› (hq p hp)
      · split
        · split
          · exact hrest
          · refine List.pairwise_cons.mpr ⟨fun p hp => ?_, hrest⟩
            have := hq p hp
            simp_all
        · refine List.pairwise_cons.mpr ⟨fun p hp => ?_, ih hrest⟩
          rcases mem_cellWrite hp with ⟨rfl, -⟩ | hp
          · simp only; omega
          · exact hq p hp
  · rcases mem_cellWrite hp with ⟨rfl, hv⟩ | hp
    · exact hv
    · exact hm.2 p hp

/-- Reading the address that was written gives the Word written. -/
theorem cellRead_cellWrite_same {m : Memory} (hm : Memory.wf m) (a : Nat) (v : Int) :
    cellRead (cellWrite m a v) a = v := by
  obtain ⟨hs, -⟩ := hm
  induction m with
  | nil =>
    simp only [cellWrite]
    split <;> simp_all [cellRead]
  | cons q rest ih =>
    obtain ⟨hq, hrest⟩ := List.pairwise_cons.mp hs
    simp only [cellWrite]
    split
    · rename_i hlt
      split
      · rename_i hv
        rw [hv]
        refine cellRead_of_forall_lt fun p hp => ?_
        rcases List.mem_cons.mp hp with rfl | hp
        · exact hlt
        · exact lt_trans hlt (hq p hp)
      · simp [cellRead]
    · split
      · rename_i heq
        split
        · rename_i hv
          rw [hv]
          exact cellRead_of_forall_lt fun p hp => heq ▸ hq p hp
        · simp [cellRead]
      · simp only [cellRead]
        rw [if_neg (fun h => by simp_all), ih hrest]

/-- Every other address reads as before. -/
theorem cellRead_cellWrite_other {m : Memory} {a b : Nat} (hab : b ≠ a) (v : Int) :
    cellRead (cellWrite m a v) b = cellRead m b := by
  induction m with
  | nil =>
    simp only [cellWrite]
    split
    · rfl
    · simp [cellRead, Ne.symm hab]
  | cons q rest ih =>
    simp only [cellWrite]
    split
    · split
      · rfl
      · simp [cellRead, Ne.symm hab]
    · split
      · rename_i heq
        split
        · simp [cellRead, ← heq, Ne.symm hab]
        · simp [cellRead, ← heq, Ne.symm hab]
      · simp only [cellRead, ih]

/-- A write of a Word into an existing cell leaves only existing cells that hold Words. -/
theorem memoryFits_cellWrite {c : Config} {m : Memory} (hm : MemoryFits c m) {a : Nat} {v : Int}
    (ha : a < c.memSize) (hv : Fits c.W v) : MemoryFits c (cellWrite m a v) := by
  intro p hp
  rcases mem_cellWrite hp with ⟨rfl, -⟩ | hp
  · exact ⟨ha, hv⟩
  · exact hm p hp

/-- Every cell of a memory that fits reads as a Word. -/
theorem cellRead_fits {c : Config} {m : Memory} (hm : MemoryFits c m) (a : Nat) : Fits c.W (cellRead m a) := by
  induction m with
  | nil =>
    have := wordHalf_pos c.W
    simp only [cellRead, blankWord, Fits]; omega
  | cons q rest ih =>
    simp only [cellRead]
    split
    · exact (hm q (by simp)).2
    · exact ih fun p hp => hm p (by simp [hp])

/-- The memory a loader leaves is in canonical form (R203). -/
theorem loadImage_wf (image : Image) : Memory.wf (loadImage image) := by
  induction image with
  | nil => exact ⟨List.Pairwise.nil, by simp [loadImage]⟩
  | cons p rest ih => exact cellWrite_wf ih _ _

/-- Loading an instruction's words keeps the canonical form. -/
theorem placeWords_wf (ws : List Int) (a : Int) (s : State) (h : Memory.wf s.mem) :
    Memory.wf (placeWords ws a s).mem := by
  induction ws generalizing a s with
  | nil => exact h
  | cons v vs ih =>
    refine ih _ _ ?_
    split
    · exact cellWrite_wf h _ _
    · exact h

/-- The memory right after reset is canonical. -/
theorem reset_memory_wf : Memory.wf State.reset.mem := by decide

/-- Every micro-operation keeps memory canonical. -/
theorem microStep_memory_wf (op : MicroOp) {s : State} (h : Memory.wf s.mem) : Memory.wf (microStep op s).mem := by
  cases op <;>
    first
    | exact h
    | (rename_i r; cases r <;> exact h)
    | (simp only [microStep, demuxSetValueStep, memReadStep, memStoreStep, stkDecTopStep, stkCheckNotEmptyStep]
       repeat' split
       all_goals first | exact h | exact cellWrite_wf h _ _)

/-- So does any sequence of them. -/
theorem runMicro_memory_wf (ops : List MicroOp) {s : State} (h : Memory.wf s.mem) : Memory.wf (runMicro ops s).mem := by
  induction ops generalizing s with
  | nil => exact h
  | cons op ops ih =>
    unfold runMicro
    split
    · exact ih (microStep_memory_wf op h)
    · exact h

end Sys2Proof.Machine
end

