-- ==== Sys2Proof/Laws/State.lean ====
section
/-! SUPPORT. One lemma per field per named update of State, true by rfl, so that no later proof unfolds an update. -/

namespace Sys2Proof.Machine

variable (s : State)

/-! ### `State.setFlags` -/

@[simp] theorem State.setFlags_cfg (r : Int) : (s.setFlags r).cfg = s.cfg := rfl
@[simp] theorem State.setFlags_x (r : Int) : (s.setFlags r).x = s.x := rfl
@[simp] theorem State.setFlags_pc (r : Int) : (s.setFlags r).pc = s.pc := rfl
@[simp] theorem State.setFlags_ir (r : Int) : (s.setFlags r).ir = s.ir := rfl
@[simp] theorem State.setFlags_flags (r : Int) : (s.setFlags r).flags = flagsAfter s.flags r := rfl
@[simp] theorem State.setFlags_stkTop (r : Int) : (s.setFlags r).stkTop = s.stkTop := rfl
@[simp] theorem State.setFlags_stkBot (r : Int) : (s.setFlags r).stkBot = s.stkBot := rfl
@[simp] theorem State.setFlags_mem (r : Int) : (s.setFlags r).mem = s.mem := rfl
@[simp] theorem State.setFlags_ext (r : Int) : (s.setFlags r).ext = s.ext := rfl
@[simp] theorem State.setFlags_iba (r : Int) : (s.setFlags r).iba = s.iba := rfl
@[simp] theorem State.setFlags_ibb (r : Int) : (s.setFlags r).ibb = s.ibb := rfl
@[simp] theorem State.setFlags_pend (r : Int) : (s.setFlags r).pend = s.pend := rfl
@[simp] theorem State.setFlags_acc0 (r : Int) : (s.setFlags r).acc0 = s.acc0 := rfl
@[simp] theorem State.setFlags_acc1 (r : Int) : (s.setFlags r).acc1 = s.acc1 := rfl
@[simp] theorem State.setFlags_sm0 (r : Int) : (s.setFlags r).sm0 = s.sm0 := rfl
@[simp] theorem State.setFlags_sm1 (r : Int) : (s.setFlags r).sm1 = s.sm1 := rfl
@[simp] theorem State.setFlags_sel (r : Int) : (s.setFlags r).sel = s.sel := rfl
@[simp] theorem State.setFlags_run (r : Int) : (s.setFlags r).run = s.run := rfl

/-! ### `State.writeCell` -/

@[simp] theorem State.writeCell_cfg (a v : Int) : (s.writeCell a v).cfg = s.cfg := rfl
@[simp] theorem State.writeCell_x (a v : Int) : (s.writeCell a v).x = s.x := rfl
@[simp] theorem State.writeCell_pc (a v : Int) : (s.writeCell a v).pc = s.pc := rfl
@[simp] theorem State.writeCell_ir (a v : Int) : (s.writeCell a v).ir = s.ir := rfl
@[simp] theorem State.writeCell_flags (a v : Int) : (s.writeCell a v).flags = s.flags := rfl
@[simp] theorem State.writeCell_stkTop (a v : Int) : (s.writeCell a v).stkTop = s.stkTop := rfl
@[simp] theorem State.writeCell_stkBot (a v : Int) : (s.writeCell a v).stkBot = s.stkBot := rfl
@[simp] theorem State.writeCell_mem (a v : Int) : (s.writeCell a v).mem = cellWrite s.mem a.toNat v := rfl
@[simp] theorem State.writeCell_ext (a v : Int) : (s.writeCell a v).ext = s.ext := rfl
@[simp] theorem State.writeCell_iba (a v : Int) : (s.writeCell a v).iba = s.iba := rfl
@[simp] theorem State.writeCell_ibb (a v : Int) : (s.writeCell a v).ibb = s.ibb := rfl
@[simp] theorem State.writeCell_pend (a v : Int) : (s.writeCell a v).pend = s.pend := rfl
@[simp] theorem State.writeCell_acc0 (a v : Int) : (s.writeCell a v).acc0 = s.acc0 := rfl
@[simp] theorem State.writeCell_acc1 (a v : Int) : (s.writeCell a v).acc1 = s.acc1 := rfl
@[simp] theorem State.writeCell_sm0 (a v : Int) : (s.writeCell a v).sm0 = s.sm0 := rfl
@[simp] theorem State.writeCell_sm1 (a v : Int) : (s.writeCell a v).sm1 = s.sm1 := rfl
@[simp] theorem State.writeCell_sel (a v : Int) : (s.writeCell a v).sel = s.sel := rfl
@[simp] theorem State.writeCell_run (a v : Int) : (s.writeCell a v).run = s.run := rfl

/-! ### `State.setReg` -/

@[simp] theorem State.setReg_cfg (i : Nat) (v : Int) : (s.setReg i v).cfg = s.cfg := rfl
@[simp] theorem State.setReg_x (i : Nat) (v : Int) : (s.setReg i v).x = s.x.set i v := rfl
@[simp] theorem State.setReg_pc (i : Nat) (v : Int) : (s.setReg i v).pc = s.pc := rfl
@[simp] theorem State.setReg_ir (i : Nat) (v : Int) : (s.setReg i v).ir = s.ir := rfl
@[simp] theorem State.setReg_flags (i : Nat) (v : Int) : (s.setReg i v).flags = s.flags := rfl
@[simp] theorem State.setReg_stkTop (i : Nat) (v : Int) : (s.setReg i v).stkTop = s.stkTop := rfl
@[simp] theorem State.setReg_stkBot (i : Nat) (v : Int) : (s.setReg i v).stkBot = s.stkBot := rfl
@[simp] theorem State.setReg_mem (i : Nat) (v : Int) : (s.setReg i v).mem = s.mem := rfl
@[simp] theorem State.setReg_ext (i : Nat) (v : Int) : (s.setReg i v).ext = s.ext := rfl
@[simp] theorem State.setReg_iba (i : Nat) (v : Int) : (s.setReg i v).iba = s.iba := rfl
@[simp] theorem State.setReg_ibb (i : Nat) (v : Int) : (s.setReg i v).ibb = s.ibb := rfl
@[simp] theorem State.setReg_pend (i : Nat) (v : Int) : (s.setReg i v).pend = s.pend := rfl
@[simp] theorem State.setReg_acc0 (i : Nat) (v : Int) : (s.setReg i v).acc0 = s.acc0 := rfl
@[simp] theorem State.setReg_acc1 (i : Nat) (v : Int) : (s.setReg i v).acc1 = s.acc1 := rfl
@[simp] theorem State.setReg_sm0 (i : Nat) (v : Int) : (s.setReg i v).sm0 = s.sm0 := rfl
@[simp] theorem State.setReg_sm1 (i : Nat) (v : Int) : (s.setReg i v).sm1 = s.sm1 := rfl
@[simp] theorem State.setReg_sel (i : Nat) (v : Int) : (s.setReg i v).sel = s.sel := rfl
@[simp] theorem State.setReg_run (i : Nat) (v : Int) : (s.setReg i v).run = s.run := rfl

/-! ### `State.raise` -/

@[simp] theorem State.raise_cfg (k : ErrorKind) (v : Int) : (s.raise k v).cfg = s.cfg := rfl
@[simp] theorem State.raise_x (k : ErrorKind) (v : Int) : (s.raise k v).x = s.x := rfl
@[simp] theorem State.raise_pc (k : ErrorKind) (v : Int) : (s.raise k v).pc = s.pc := rfl
@[simp] theorem State.raise_ir (k : ErrorKind) (v : Int) : (s.raise k v).ir = s.ir := rfl
@[simp] theorem State.raise_flags (k : ErrorKind) (v : Int) : (s.raise k v).flags = s.flags := rfl
@[simp] theorem State.raise_stkTop (k : ErrorKind) (v : Int) : (s.raise k v).stkTop = s.stkTop := rfl
@[simp] theorem State.raise_stkBot (k : ErrorKind) (v : Int) : (s.raise k v).stkBot = s.stkBot := rfl
@[simp] theorem State.raise_mem (k : ErrorKind) (v : Int) : (s.raise k v).mem = s.mem := rfl
@[simp] theorem State.raise_ext (k : ErrorKind) (v : Int) : (s.raise k v).ext = s.ext := rfl
@[simp] theorem State.raise_iba (k : ErrorKind) (v : Int) : (s.raise k v).iba = s.iba := rfl
@[simp] theorem State.raise_ibb (k : ErrorKind) (v : Int) : (s.raise k v).ibb = s.ibb := rfl
@[simp] theorem State.raise_pend (k : ErrorKind) (v : Int) : (s.raise k v).pend = s.pend := rfl
@[simp] theorem State.raise_acc0 (k : ErrorKind) (v : Int) : (s.raise k v).acc0 = s.acc0 := rfl
@[simp] theorem State.raise_acc1 (k : ErrorKind) (v : Int) : (s.raise k v).acc1 = s.acc1 := rfl
@[simp] theorem State.raise_sm0 (k : ErrorKind) (v : Int) : (s.raise k v).sm0 = s.sm0 := rfl
@[simp] theorem State.raise_sm1 (k : ErrorKind) (v : Int) : (s.raise k v).sm1 = s.sm1 := rfl
@[simp] theorem State.raise_sel (k : ErrorKind) (v : Int) : (s.raise k v).sel = s.sel := rfl
@[simp] theorem State.raise_run (k : ErrorKind) (v : Int) : (s.raise k v).run = .faulted k v := rfl

/-! ### `State.halt` -/

@[simp] theorem State.halt_cfg : s.halt.cfg = s.cfg := rfl
@[simp] theorem State.halt_x : s.halt.x = s.x := rfl
@[simp] theorem State.halt_pc : s.halt.pc = s.pc := rfl
@[simp] theorem State.halt_ir : s.halt.ir = s.ir := rfl
@[simp] theorem State.halt_flags : s.halt.flags = s.flags := rfl
@[simp] theorem State.halt_stkTop : s.halt.stkTop = s.stkTop := rfl
@[simp] theorem State.halt_stkBot : s.halt.stkBot = s.stkBot := rfl
@[simp] theorem State.halt_mem : s.halt.mem = s.mem := rfl
@[simp] theorem State.halt_ext : s.halt.ext = s.ext := rfl
@[simp] theorem State.halt_iba : s.halt.iba = s.iba := rfl
@[simp] theorem State.halt_ibb : s.halt.ibb = s.ibb := rfl
@[simp] theorem State.halt_pend : s.halt.pend = s.pend := rfl
@[simp] theorem State.halt_acc0 : s.halt.acc0 = s.acc0 := rfl
@[simp] theorem State.halt_acc1 : s.halt.acc1 = s.acc1 := rfl
@[simp] theorem State.halt_sm0 : s.halt.sm0 = s.sm0 := rfl
@[simp] theorem State.halt_sm1 : s.halt.sm1 = s.sm1 := rfl
@[simp] theorem State.halt_sel : s.halt.sel = s.sel := rfl
@[simp] theorem State.halt_run : s.halt.run = .halted := rfl

/-! ### The ALU cells and the external bus -/

@[simp] theorem State.setAcc_zero (v : Int) : s.setAcc .zero v = { s with acc0 := v } := rfl
@[simp] theorem State.acc_zero : s.acc .zero = s.acc0 := rfl
@[simp] theorem State.setAcc_one (v : Int) : s.setAcc .one v = { s with acc1 := v } := rfl
@[simp] theorem State.acc_one : s.acc .one = s.acc1 := rfl
@[simp] theorem putExt_cfg (v : Int) : (putExt v s).cfg = s.cfg := rfl
@[simp] theorem putExt_x (v : Int) : (putExt v s).x = s.x := rfl
@[simp] theorem putExt_pc (v : Int) : (putExt v s).pc = s.pc := rfl
@[simp] theorem putExt_ir (v : Int) : (putExt v s).ir = s.ir := rfl
@[simp] theorem putExt_flags (v : Int) : (putExt v s).flags = s.flags := rfl
@[simp] theorem putExt_stkTop (v : Int) : (putExt v s).stkTop = s.stkTop := rfl
@[simp] theorem putExt_stkBot (v : Int) : (putExt v s).stkBot = s.stkBot := rfl
@[simp] theorem putExt_mem (v : Int) : (putExt v s).mem = s.mem := rfl
@[simp] theorem putExt_ext (v : Int) : (putExt v s).ext = v := rfl
@[simp] theorem putExt_iba (v : Int) : (putExt v s).iba = s.iba := rfl
@[simp] theorem putExt_ibb (v : Int) : (putExt v s).ibb = s.ibb := rfl
@[simp] theorem putExt_pend (v : Int) : (putExt v s).pend = s.pend := rfl
@[simp] theorem putExt_acc0 (v : Int) : (putExt v s).acc0 = s.acc0 := rfl
@[simp] theorem putExt_acc1 (v : Int) : (putExt v s).acc1 = s.acc1 := rfl
@[simp] theorem putExt_sm0 (v : Int) : (putExt v s).sm0 = s.sm0 := rfl
@[simp] theorem putExt_sm1 (v : Int) : (putExt v s).sm1 = s.sm1 := rfl
@[simp] theorem putExt_sel (v : Int) : (putExt v s).sel = s.sel := rfl
@[simp] theorem putExt_run (v : Int) : (putExt v s).run = s.run := rfl

end Sys2Proof.Machine
end

