-- ==== Sys2Proof/Laws/Micro.lean ====
section
/-! SUPPORT. What issuing micro-operations can do: the laws of `runMicro` and `issue`, one lemma per raising
micro-operation, and one per shared sequence (40_microops.md). -/

namespace Sys2Proof.Machine

/-! ### Issuing -/

@[simp] theorem runMicro_nil (s : State) : runMicro [] s = s := rfl

theorem runMicro_cons {s : State} (h : s.run = .running) (op : MicroOp) (ops : List MicroOp) :
    runMicro (op :: ops) s = runMicro ops (microStep op s) := by
  simp [runMicro, h]

/-- R180: "no further micro-operation is issued". -/
theorem runMicro_of_ended {s : State} (h : s.run ≠ .running) (ops : List MicroOp) : runMicro ops s = s := by
  cases ops with
  | nil => rfl
  | cons op ops =>
    unfold runMicro
    split
    · exact absurd ‹_› h
    · rfl

/-- Once a micro-operation has raised, the rest of the program changes nothing. -/
@[simp] theorem runMicro_raise (ops : List MicroOp) (s : State) (k : ErrorKind) (v : Int) :
    runMicro ops (s.raise k v) = s.raise k v := runMicro_of_ended (by simp) ops

theorem runMicro_append (p q : List MicroOp) (s : State) : runMicro (p ++ q) s = runMicro q (runMicro p s) := by
  induction p generalizing s with
  | nil => rfl
  | cons op p ih =>
    by_cases h : s.run = .running
    · rw [List.cons_append, runMicro_cons h, runMicro_cons h, ih]
    · rw [runMicro_of_ended h, runMicro_of_ended h, runMicro_of_ended h]

/-- A property that each micro-operation of a program keeps, the program keeps. -/
theorem runMicro_induction {P : State → Prop} {ops : List MicroOp}
    (keep : ∀ op ∈ ops, ∀ s : State, P s → P (microStep op s)) {s : State} (h : P s) : P (runMicro ops s) := by
  induction ops generalizing s with
  | nil => exact h
  | cons op ops ih =>
    by_cases hr : s.run = .running
    · rw [runMicro_cons hr]
      exact ih (fun o ho => keep o (by simp [ho])) (keep op (by simp) s h)
    · rwa [runMicro_of_ended hr]

/-- Everything `issue` can answer with a next state. -/
theorem issue_next {program : List MicroOp} {s t : State} :
    issue program s = .next t ↔ s.run = .running ∧ t = runMicro program s := by
  unfold issue
  cases h : s.run <;> simp [eq_comm]

theorem issue_of_running {program : List MicroOp} {s : State} (h : s.run = .running) :
    issue program s = .next (runMicro program s) := issue_next.mpr ⟨h, rfl⟩

/-! ### The micro-operations that can raise (R119) -/

theorem memReadStep_valid {s : State} (h : ValidAddress s.cfg s.ext) (w : Int) :
    memReadStep w s = { s with ext := w } := if_pos h

theorem memReadStep_invalid {s : State} (h : ¬ ValidAddress s.cfg s.ext) (w : Int) :
    memReadStep w s = s.raise .outOfBoundsAddress s.ext := if_neg h

theorem memStoreStep_address {s : State} (hp : s.pend = none) (h : ValidAddress s.cfg s.ext) :
    memStoreStep s = { s with pend := some s.ext } := by
  simp [memStoreStep, hp, h]

theorem memStoreStep_invalid {s : State} (hp : s.pend = none) (h : ¬ ValidAddress s.cfg s.ext) :
    memStoreStep s = s.raise .outOfBoundsAddress s.ext := by
  rw [memStoreStep, hp]
  exact if_neg h

theorem memStoreStep_data {s : State} {a : Int} (hp : s.pend = some a) :
    memStoreStep s = { s.writeCell a s.ext with pend := none } := by
  simp [memStoreStep, hp]

theorem demuxSetValueStep_valid {s : State} (h : ValidRegister s.cfg s.ext) :
    demuxSetValueStep s = { s with sel := s.ext.toNat } := if_pos h

theorem demuxSetValueStep_invalid {s : State} (h : ¬ ValidRegister s.cfg s.ext) :
    demuxSetValueStep s = s.raise .invalidRegisterId s.ext := if_neg h

theorem stkDecTopStep_room {s : State} (h : ¬ s.stkTop - 1 < s.stkBot) :
    stkDecTopStep s = { s with stkTop := s.stkTop - 1 } := if_neg h

theorem stkDecTopStep_full {s : State} (h : s.stkTop - 1 < s.stkBot) :
    stkDecTopStep s = s.raise .stackOverflow s.stkTop := if_pos h

theorem stkCheckNotEmptyStep_nonempty {s : State} (h : s.stkTop ≠ s.cfg.stackTopInit) :
    stkCheckNotEmptyStep s = s := if_neg h

theorem stkCheckNotEmptyStep_empty {s : State} (h : s.stkTop = s.cfg.stackTopInit) :
    stkCheckNotEmptyStep s = s.raise .stackUnderflow s.stkTop := if_pos h

/-! ### Frames of single micro-operations -/

@[simp] theorem microStep_cfg (op : MicroOp) (s : State) : (microStep op s).cfg = s.cfg := by
  cases op <;>
    first
    | rfl
    | (rename_i r; cases r <;> rfl)
    | (simp only [microStep, demuxSetValueStep, memReadStep, memStoreStep, stkDecTopStep, stkCheckNotEmptyStep]
       repeat' split
       all_goals rfl)

/-- R17: "Nothing writes it after reset." -/
@[simp] theorem microStep_stkBot (op : MicroOp) (s : State) : (microStep op s).stkBot = s.stkBot := by
  cases op <;>
    first
    | rfl
    | (rename_i r; cases r <;> rfl)
    | (simp only [microStep, demuxSetValueStep, memReadStep, memStoreStep, stkDecTopStep, stkCheckNotEmptyStep]
       repeat' split
       all_goals rfl)

/-- R14: the flags are written by `FLAGS.update` and `FLAGS.setBit` alone. -/
theorem microStep_flags {op : MicroOp} (hu : op ≠ .flagsUpdate) (hb : ∀ i b, op ≠ .flagsSetBit i b) (s : State) :
    (microStep op s).flags = s.flags := by
  cases op <;>
    first
    | rfl
    | (rename_i r; cases r <;> rfl)
    | exact absurd rfl hu
    | exact absurd rfl (hb _ _)
    | (simp only [microStep, demuxSetValueStep, memReadStep, memStoreStep, stkDecTopStep, stkCheckNotEmptyStep]
       repeat' split
       all_goals rfl)

/-- R44: memory is written by `MEM.store` alone. -/
theorem microStep_mem {op : MicroOp} (h : op ≠ .memStore) (s : State) : (microStep op s).mem = s.mem := by
  cases op <;>
    first
    | rfl
    | (rename_i r; cases r <;> rfl)
    | exact absurd rfl h
    | (simp only [microStep, demuxSetValueStep, memReadStep, stkDecTopStep, stkCheckNotEmptyStep]
       repeat' split
       all_goals rfl)

/-- R16: `StkTop` is "written only by the stack micro-operations `STK.decTop` and `STK.incTop`". -/
theorem microStep_stkTop {op : MicroOp} (hd : op ≠ .stkDecTop) (hi : op ≠ .stkIncTop) (s : State) :
    (microStep op s).stkTop = s.stkTop := by
  cases op <;>
    first
    | rfl
    | (rename_i r; cases r <;> rfl)
    | exact absurd rfl hd
    | exact absurd rfl hi
    | (simp only [microStep, demuxSetValueStep, memReadStep, memStoreStep, stkCheckNotEmptyStep]
       repeat' split
       all_goals rfl)

@[simp] theorem runMicro_cfg (ops : List MicroOp) (s : State) : (runMicro ops s).cfg = s.cfg :=
  runMicro_induction (P := fun t => t.cfg = s.cfg) (fun op _ t h => (microStep_cfg op t).trans h) rfl

@[simp] theorem runMicro_stkBot (ops : List MicroOp) (s : State) : (runMicro ops s).stkBot = s.stkBot :=
  runMicro_induction (P := fun t => t.stkBot = s.stkBot) (fun op _ t h => (microStep_stkBot op t).trans h) rfl

/-! ### The composite memory operations -/

/-- `MemRead(a, 1)` (R42), the whole of it. -/
theorem memReadAt_eq {s : State} (h : s.run = .running) (a : Int) :
    memReadAt a s =
      if ValidAddress s.cfg a then { s with ext := cellRead s.mem a.toNat }
      else { s with ext := a }.raise .outOfBoundsAddress a := by
  rw [memReadAt, runMicro_cons (by exact h), runMicro_nil]
  show memReadStep (State.cell (putExt a s) a) (putExt a s) = _
  by_cases ha : ValidAddress s.cfg a
  · rw [memReadStep_valid (s := putExt a s) ha, if_pos ha, State.cell, if_pos (by exact ha)]
    rfl
  · rw [memReadStep_invalid (s := putExt a s) ha, if_neg ha]
    rfl

/-- `MemWrite(a, 1, v)` (R45), the whole of it when nothing is pending. -/
theorem memWriteAt_eq {s : State} (h : s.run = .running) (hp : s.pend = none) (a v : Int) :
    memWriteAt a v s =
      if ValidAddress s.cfg a then { s with ext := v, mem := cellWrite s.mem a.toNat v }
      else { s with ext := a }.raise .outOfBoundsAddress a := by
  by_cases ha : ValidAddress s.cfg a
  · simp [memWriteAt, runMicro, microStep, putExt, memStoreStep, State.writeCell, h, hp, eq_true ha]
  · simp [memWriteAt, runMicro, microStep, putExt, memStoreStep, h, hp, eq_false ha]

/-! ### The shared sequences -/

/-- R109, effect and residue. -/
theorem runMicro_incPc {s : State} (h : s.run = .running) :
    runMicro incPc s =
      { s with pc := wrap s.cfg.W (s.pc + 1), iba := s.pc
               ibb := wrap s.cfg.W (s.pc + 1), acc1 := wrap s.cfg.W (s.pc + 1) } := by
  simp [incPc, runMicro, microStep, internalReadStep, internalStoreStep, aluResult, h]

/-- R116 for a carried operand word, at a valid address. -/
theorem runMicro_operand_some {s : State} (h : s.run = .running) (hp : ValidAddress s.cfg s.pc) (w : Int) :
    runMicro (operand (some w)) s = { s with ext := w } := by
  simp [operand, runMicro, microStep, readStep, memReadStep, h, eq_true hp]

/-- R116 from memory, at a valid address. -/
theorem runMicro_operand_none {s : State} (h : s.run = .running) (hp : ValidAddress s.cfg s.pc) :
    runMicro (operand none) s = { s with ext := cellRead s.mem s.pc.toNat } := by
  simp [operand, runMicro, microStep, readStep, memReadStep, State.cell, h, eq_true hp]

/-- R116: "raises `OutOfBoundsAddress(PC)` if `PC` is not a valid address". -/
theorem runMicro_operand_invalid {s : State} (h : s.run = .running) (hp : ¬ ValidAddress s.cfg s.pc) (w : OperandWord) :
    runMicro (operand w) s = { s with ext := s.pc }.raise .outOfBoundsAddress s.pc := by
  cases w <;>
    simp only [operand, runMicro, microStep, readStep, h] <;>
    rw [memReadStep_invalid hp]

/-- A carried operand word that stands in memory at `PC` is the word OPERAND reads there. -/
theorem runMicro_operand_agree {s : State} {w : Int} (h : s.run = .running)
    (hw : ValidAddress s.cfg s.pc → s.cell s.pc = w) :
    runMicro (operand (some w)) s = runMicro (operand none) s := by
  by_cases hp : ValidAddress s.cfg s.pc
  · rw [runMicro_operand_some h hp, runMicro_operand_none h hp, ← hw hp, State.cell, if_pos hp]
  · rw [runMicro_operand_invalid h hp, runMicro_operand_invalid h hp]

/-- R166 for a carried id: valid. -/
theorem runMicro_registerOperand {s : State} (h : s.run = .running) (hp : ValidAddress s.cfg s.pc) {id : Int}
    (hid : ValidRegister s.cfg id) :
    runMicro (registerOperand (some id)) s = { s with ext := id, sel := id.toNat } := by
  rw [registerOperand, runMicro_append, runMicro_operand_some h hp]
  simp [runMicro, microStep, demuxSetValueStep, h, eq_true hid]

/-- R166 for a carried id: "raises `InvalidRegisterId(id)` unless `0 <= id < NREGS`". -/
theorem runMicro_registerOperand_invalid {s : State} (h : s.run = .running) (hp : ValidAddress s.cfg s.pc) {id : Int}
    (hid : ¬ ValidRegister s.cfg id) :
    runMicro (registerOperand (some id)) s = { s with ext := id }.raise .invalidRegisterId id := by
  rw [registerOperand, runMicro_append, runMicro_operand_some h hp, runMicro_cons (by exact h), runMicro_nil]
  exact demuxSetValueStep_invalid hid

/-- The memory operand of R130, R153, R163 at valid addresses: the Word reaches `acc1`, Reg0 is saved in `acc0` and
holds the Word. -/
theorem runMicro_memoryOperand {s : State} (h : s.run = .running) (hx : 0 < s.x.length)
    (hp : ValidAddress s.cfg s.pc) {addr : Int} (ha : ValidAddress s.cfg addr) :
    runMicro (memoryOperand (some addr)) s =
      { s with x := s.x.set 0 (s.cell addr), ext := s.cell addr, iba := s.cell addr
               acc0 := s.reg 0, acc1 := s.cell addr } := by
  simp [memoryOperand, runMicro_append, runMicro_operand_some, runMicro, microStep, internalReadStep, storeStep,
    memReadStep, State.cell, State.setReg, State.reg, h, hx, eq_true hp, eq_true ha]

/-- The memory operand at an invalid data address raises before Reg0 is touched. -/
theorem runMicro_memoryOperand_invalid {s : State} (h : s.run = .running)
    (hp : ValidAddress s.cfg s.pc) {addr : Int} (ha : ¬ ValidAddress s.cfg addr) :
    runMicro (memoryOperand (some addr)) s =
      { s with ext := addr, iba := s.reg 0, acc0 := s.reg 0 }.raise .outOfBoundsAddress addr := by
  simp [memoryOperand, runMicro_append, runMicro_operand_some, runMicro, microStep, internalReadStep,
    memReadStep, State.reg, h, eq_true hp, eq_false ha]

/-- The two register operands of R160, R161, R165, all valid. -/
theorem runMicro_registerPair {s : State} (h : s.run = .running) {a b : Int}
    (h1 : ValidAddress s.cfg (wrap s.cfg.W (s.pc + 1)))
    (h2 : ValidAddress s.cfg (wrap s.cfg.W (wrap s.cfg.W (s.pc + 1) + 1)))
    (ha : ValidRegister s.cfg a) (hb : ValidRegister s.cfg b) :
    runMicro (registerPair (some a) (some b)) s =
      { s with pc := wrap s.cfg.W (wrap s.cfg.W (s.pc + 1) + 1), ext := b, sel := b.toNat
               iba := wrap s.cfg.W (s.pc + 1), ibb := wrap s.cfg.W (wrap s.cfg.W (s.pc + 1) + 1)
               acc0 := s.reg a.toNat, acc1 := wrap s.cfg.W (wrap s.cfg.W (s.pc + 1) + 1) } := by
  simp [registerPair, runMicro_append, runMicro_incPc, runMicro_registerOperand, runMicro, microStep, State.reg,
    h, eq_true h1, eq_true h2, eq_true ha, eq_true hb]

/-- R110 and R111 at a valid `PC`. -/
theorem fetchDecode_valid {s : State} (h : s.run = .running) (hp : ValidAddress s.cfg s.pc) :
    fetchDecode s = { s with ext := s.cell s.pc, ir := s.cell s.pc, iba := s.cell s.pc } := by
  simp [fetchDecode, fetchSequence, decodeSequence, runMicro, microStep, readStep, storeStep, internalReadStep,
    memReadStep, State.cell, h, eq_true hp]

/-- R110: "the `MEM.read` raises `OutOfBoundsAddress(PC)` and `IR` is unchanged". -/
theorem fetchDecode_invalid {s : State} (h : s.run = .running) (hp : ¬ ValidAddress s.cfg s.pc) :
    fetchDecode s = { s with ext := s.pc }.raise .outOfBoundsAddress s.pc := by
  rw [fetchDecode, fetchSequence, decodeSequence, List.cons_append, runMicro_cons h, List.cons_append,
    runMicro_cons (by exact h)]
  have hm : microStep .memRead (microStep (.read .pc) s) = { s with ext := s.pc }.raise .outOfBoundsAddress s.pc :=
    memReadStep_invalid (s := { s with ext := s.pc }) hp _
  rw [hm]
  exact runMicro_of_ended (by simp) _

/-- Everything the host's step can answer with a next state. -/
theorem hostStep_next {s t : State} (h : hostStep s = .next t) :
    s.cfg.WF ∧ s.run = .running ∧ s.pend = none ∧ instructionStep s = .next t := by
  unfold hostStep at h
  split at h
  · split at h
    · cases h
    · cases h
    · split at h
      · exact ⟨‹_›, ‹_›, ‹_›, h⟩
      · cases h
  · cases h

end Sys2Proof.Machine
end

