-- ==== Sys2Proof/Laws/HostPort.lean ====
section
/-! SUPPORT. The host's stack `reset()` (70_reset_and_hazards.md R206): part of machine reset, refused of a machine that
has been started. -/

namespace Sys2Proof.Machine

/-- `IR` is written by `IR.store` alone (10_state.md R13). -/
theorem microStep_ir {op : MicroOp} (h : op ≠ .store .ir) (s : State) : (microStep op s).ir = s.ir := by
  cases op <;>
    first
    | rfl
    | (rename_i r; cases r <;> first | rfl | exact absurd rfl h)
    | (simp only [microStep, demuxSetValueStep, memReadStep, memStoreStep, stkDecTopStep, stkCheckNotEmptyStep]
       repeat' split
       all_goals rfl)

/-- A program that does not issue `IR.store` leaves `IR`. -/
theorem issue_ir {program : List MicroOp} (hp : .store .ir ∉ program) {s t : State} (h : issue program s = .next t) :
    t.ir = s.ir := by
  obtain ⟨-, rfl⟩ := issue_next.mp h
  exact runMicro_induction (P := fun u => u.ir = s.ir)
    (fun op ho u hu => (microStep_ir (fun e => hp (e ▸ ho)) u).trans hu) rfl

/-- No instruction writes `IR`: it holds the opcode from fetch to the end of the step (R13). -/
theorem exec_ir {i : Instr} {s t : State} (h : exec i s = .next t) : t.ir = s.ir := by
  cases i <;> exact issue_ir (by
    simp [addProgram, subProgram, accMemProgram, incProgram, jmpProgram, jzProgram, jnProgram, jnzProgram, jeProgram,
      jneProgram, condJumpProgram, readProgram, storeProgram, ldiProgram, incmemProgram, moveregregProgram,
      addregregProgram, subregregProgram, regRegProgram, addregmemProgram, subregmemProgram, regMemProgram, cmpProgram,
      callProgram, retProgram, incPc, operand, registerOperand, memoryOperand, registerPair]) h

/-- What decodes from an opcode Word of 0 is ADD (30_encoding.md R75). -/
theorem decode_zero {ws rest : List Int} {i : Instr} (h : decode (0 :: ws) = .ok (i, rest)) : ∃ addr, i = .add addr := by
  cases ws with
  | nil => cases h
  | cons a ws =>
    cases h
    exact ⟨a, rfl⟩

/-- After an INCPC that completes a program, `IBB` and `IBA` are not both 0 (R109). -/
theorem issue_incPc_buses {pre : List MicroOp} {s t : State} (hW : 8 ≤ s.cfg.W)
    (h : issue (pre ++ incPc) s = .next t) (hr : t.run = .running) : ¬ (t.iba = 0 ∧ t.ibb = 0) := by
  obtain ⟨-, rfl⟩ := issue_next.mp h
  rw [runMicro_append] at hr ⊢
  by_cases hu : (runMicro pre s).run = .running
  · rw [runMicro_incPc hu]
    rintro ⟨ha, hb⟩
    simp only [runMicro_cfg] at ha hb
    rw [ha, wrap_of_fits (by omega)] at hb
    · omega
    · have h2 : 128 ≤ wordHalf s.cfg.W := by
        unfold wordHalf
        exact_mod_cast Nat.pow_le_pow_right (n := 2) (by omega) (show 7 ≤ s.cfg.W - 1 by omega)
      exact ⟨by omega, by omega⟩
  · rw [runMicro_of_ended hu] at hr
    exact absurd hr hu

/-- No step answers a machine that looks as reset leaves it: it has ended, or `IR` holds an opcode other than 0, or it is
after an ADD, whose last INCPC leaves the buses. -/
theorem not_notStarted_of_step {s t : State} (h : step s = .next t) : ¬ NotStarted t := by
  obtain ⟨hc, hr, -, hi⟩ := hostStep_next h
  intro hn
  have hrun : t.run = .running := by rw [hn]; rfl
  have hir : t.ir = 0 := by rw [hn]; rfl
  have hbus : t.iba = 0 ∧ t.ibb = 0 := by rw [hn]; exact ⟨rfl, rfl⟩
  unfold instructionStep at hi
  by_cases hp : ValidAddress s.cfg s.pc
  · rw [fetchDecode_valid hr hp] at hi
    simp only [hr] at hi
    unfold dispatch at hi
    split at hi
    · rename_i i rest hd
      have h0 : s.cell s.pc = 0 := (exec_ir hi).symm.trans hir
      simp only [fetchedWords, h0] at hd
      obtain ⟨addr, rfl⟩ := decode_zero hd
      exact issue_incPc_buses (s := { s with ext := s.cell s.pc, ir := s.cell s.pc, iba := s.cell s.pc, run := .running })
        hc.1 hi hrun hbus
    · cases hi
      cases hrun
  · rw [fetchDecode_invalid hr hp] at hi
    cases hi
    cases hrun

/-- Everything `stackReset` can answer with a next state: of a machine at reset, and that machine as it is. -/
theorem stackReset_next {s t : State} : stackReset s = .next t ↔ NotStarted s ∧ t = s := by
  unfold stackReset
  by_cases hn : NotStarted s
  · rw [if_pos hn]
    have ht : restoreTop s = s := by rw [hn]; rfl
    rw [ht]
    exact ⟨fun h => ⟨hn, (Host.Outcome.next.inj h).symm⟩, fun h => by rw [h.2]⟩
  · rw [if_neg hn]
    exact ⟨nofun, fun h => absurd h.1 hn⟩

/-- R206: "`reset()` is part of machine reset": reset has done it. -/
theorem stackReset_resetWith (c : Config) (m : Memory) :
    stackReset (State.resetWith c m) = .next (restoreTop (State.resetWith c m)) := if_pos rfl

/-- U10: after any step it is refused. -/
theorem stackReset_after_step {s t : State} (h : step s = .next t) : stackReset t = .refused .stackResetAfterStart :=
  if_neg (not_notStarted_of_step h)

end Sys2Proof.Machine
end

