-- ==== Sys2Proof/Laws/PerInstr.lean ====
section
/-! SUPPORT. Statements made for every instruction, one lemma per constructor. -/

namespace Sys2Proof.Laws

/-- The shape of an instruction in Words (30_encoding.md R70 to R75): as many as its format says, the opcode first,
the operands in the table's order; and decoding takes exactly those, whatever follows. -/
def EncodedShape.Statement (i : Instr) : Prop :=
  (encode i).length = i.format.length ∧ encode i = (i.opcode : Int) :: i.operands ∧ i.opcode ≤ 20 ∧
  ∀ rest : List Int, decode (encode i ++ rest) = .ok (i, rest)

theorem EncodedShape.add (addr : Int) : EncodedShape.Statement (.add addr) :=
  ⟨rfl, rfl, by simp [Instr.opcode], fun _ => rfl⟩

theorem EncodedShape.sub (addr : Int) : EncodedShape.Statement (.sub addr) :=
  ⟨rfl, rfl, by simp [Instr.opcode], fun _ => rfl⟩

theorem EncodedShape.jmp (addr : Int) : EncodedShape.Statement (.jmp addr) :=
  ⟨rfl, rfl, by simp [Instr.opcode], fun _ => rfl⟩

theorem EncodedShape.jz (addr : Int) : EncodedShape.Statement (.jz addr) :=
  ⟨rfl, rfl, by simp [Instr.opcode], fun _ => rfl⟩

theorem EncodedShape.jn (addr : Int) : EncodedShape.Statement (.jn addr) :=
  ⟨rfl, rfl, by simp [Instr.opcode], fun _ => rfl⟩

theorem EncodedShape.read (addr : Int) : EncodedShape.Statement (.read addr) :=
  ⟨rfl, rfl, by simp [Instr.opcode], fun _ => rfl⟩

theorem EncodedShape.store (addr : Int) : EncodedShape.Statement (.store addr) :=
  ⟨rfl, rfl, by simp [Instr.opcode], fun _ => rfl⟩

theorem EncodedShape.ldi (imm : Int) : EncodedShape.Statement (.ldi imm) :=
  ⟨rfl, rfl, by simp [Instr.opcode], fun _ => rfl⟩

theorem EncodedShape.inc : EncodedShape.Statement .inc :=
  ⟨rfl, rfl, by simp [Instr.opcode], fun _ => rfl⟩

theorem EncodedShape.moveregreg (regA regB : Int) : EncodedShape.Statement (.moveregreg regA regB) :=
  ⟨rfl, rfl, by simp [Instr.opcode], fun _ => rfl⟩

theorem EncodedShape.call (addr : Int) : EncodedShape.Statement (.call addr) :=
  ⟨rfl, rfl, by simp [Instr.opcode], fun _ => rfl⟩

theorem EncodedShape.ret : EncodedShape.Statement .ret :=
  ⟨rfl, rfl, by simp [Instr.opcode], fun _ => rfl⟩

theorem EncodedShape.addregreg (regA regB : Int) : EncodedShape.Statement (.addregreg regA regB) :=
  ⟨rfl, rfl, by simp [Instr.opcode], fun _ => rfl⟩

theorem EncodedShape.subregreg (regA regB : Int) : EncodedShape.Statement (.subregreg regA regB) :=
  ⟨rfl, rfl, by simp [Instr.opcode], fun _ => rfl⟩

theorem EncodedShape.jnz (addr : Int) : EncodedShape.Statement (.jnz addr) :=
  ⟨rfl, rfl, by simp [Instr.opcode], fun _ => rfl⟩

theorem EncodedShape.incmem (addr : Int) : EncodedShape.Statement (.incmem addr) :=
  ⟨rfl, rfl, by simp [Instr.opcode], fun _ => rfl⟩

theorem EncodedShape.addregmem (regA addr : Int) : EncodedShape.Statement (.addregmem regA addr) :=
  ⟨rfl, rfl, by simp [Instr.opcode], fun _ => rfl⟩

theorem EncodedShape.subregmem (regA addr : Int) : EncodedShape.Statement (.subregmem regA addr) :=
  ⟨rfl, rfl, by simp [Instr.opcode], fun _ => rfl⟩

theorem EncodedShape.cmp (regA regB : Int) : EncodedShape.Statement (.cmp regA regB) :=
  ⟨rfl, rfl, by simp [Instr.opcode], fun _ => rfl⟩

theorem EncodedShape.je (addr : Int) : EncodedShape.Statement (.je addr) :=
  ⟨rfl, rfl, by simp [Instr.opcode], fun _ => rfl⟩

theorem EncodedShape.jne (addr : Int) : EncodedShape.Statement (.jne addr) :=
  ⟨rfl, rfl, by simp [Instr.opcode], fun _ => rfl⟩

end Sys2Proof.Laws
end

