-- ==== Sys2Proof/Laws/WellFormed.lean ====
section
/-! SUPPORT. What the well-formedness of a state gives a proof: `PC` arithmetic does not wrap, Reg0 exists, the cells
the stack uses exist, a cell holds a Word. -/

namespace Sys2Proof.Machine

/-- R12: "Wrap-around at `2^(W-1) - 1` is unreachable": an address, or the one after the last, is left by `wrap`. -/
theorem wrap_address {c : Config} (hc : c.WF) {a : Int} (h0 : 0 ≤ a) (h1 : a ≤ c.memSize) : wrap c.W a = a := by
  have hW := hc.1
  have hM := hc.2.2.1
  have := wordHalf_pos c.W
  exact wrap_of_fits (by omega) ⟨by omega, by omega⟩

theorem fits_address {c : Config} (hc : c.WF) {a : Int} (h0 : 0 ≤ a) (h1 : a ≤ c.memSize) : Fits c.W a := by
  have hM := hc.2.2.1
  have := wordHalf_pos c.W
  exact ⟨by omega, by omega⟩

theorem fits_wrap {c : Config} (hc : c.WF) (z : Int) : Fits c.W (wrap c.W z) :=
  wrap_fits (by have := hc.1; omega) z

theorem reg0_exists {s : State} (h : s.WF) : 0 < s.x.length := by
  have hl := h.2.1.1
  have hn := h.1.2.2.2.1
  omega

/-- R51: the cell a push writes exists. -/
theorem push_address {s : State} (h : s.WF) (hne : s.stkTop ≠ s.stkBot) : ValidAddress s.cfg (s.stkTop - 1) := by
  obtain ⟨hb, hlo, hhi⟩ := h.2.2.2.2.1
  obtain ⟨-, -, -, -, -, -, htop, hbot, -⟩ := h.1
  exact ⟨by omega, by omega⟩

/-- R52: the cell a pop reads exists. -/
theorem pop_address {s : State} (h : s.WF) (hne : s.stkTop ≠ s.cfg.stackTopInit) : ValidAddress s.cfg s.stkTop := by
  obtain ⟨hb, hlo, hhi⟩ := h.2.2.2.2.1
  obtain ⟨-, -, -, -, -, -, htop, hbot, -⟩ := h.1
  exact ⟨by omega, by omega⟩

theorem reg_fits {s : State} (h : s.WF) (i : Nat) : Fits s.cfg.W (s.reg i) := by
  unfold State.reg
  by_cases hi : i < s.x.length
  · rw [List.getD_eq_getElem _ _ hi]
    exact h.2.1.2 _ (List.getElem_mem hi)
  · rw [List.getD_eq_default _ _ (by omega)]
    exact fits_address h.1 le_rfl (by omega)

theorem cell_fits {s : State} (h : s.WF) (a : Int) : Fits s.cfg.W (s.cell a) := by
  unfold State.cell
  split
  · exact cellRead_fits h.2.2.2.2.2.2.1 _
  · exact fits_address h.1 (a := blankWord) le_rfl (by simp [blankWord])

end Sys2Proof.Machine
end

