-- ==== Sys2Proof/Tests/Slice0.lean ====
section
/-! SUPPORT. Tests: ill-formed terms that the checks refuse, the decoding of every instruction from words written out
from 30_encoding.md R75, one-step vectors of 95_test_vectors.md, and for every statement with hypotheses a concrete
state and operands that meet them. -/

namespace Sys2Proof.Tests

open Sys2Proof Sys2Proof.Machine

/-! ### Helpers -/

/-- Configuration `T` after reset with `words` from address 0 and `cells`, registers `x`, flags `flags`. -/
def start (words : List Int) (cells : Memory := []) (x : List Int := [0, 0, 0, 0]) (flags : Int := 0) : State :=
  placeWords words 0 { State.reset with mem := cells, x := x, flags := flags }

/-- One field, or a few, of the next state. -/
def look {α : Type} (o : Host.Outcome State Fault Refusal) (f : State → α) : Option α :=
  match o with
  | .next t => some (f t)
  | _ => none

/-- Registers, `FLAGS` and `PC`. -/
def core3 (t : State) : List Int × Int × Int := (t.x, t.flags, t.pc)

/-- An 8-bit configuration for boundary values. -/
def small : Config :=
  { W := 8, memSize := 16, nregs := 3, stackTopInit := 14, stackBottom := 10, entry := 0 }

/-! ### Ill-formed terms -/

theorem test_wf_operand_too_large : ¬ (Instr.ldi 128).WF 8 := by decide
theorem test_wf_operand_too_small : ¬ (Instr.add (-129)).WF 8 := by decide
theorem test_wf_second_operand : ¬ (Instr.cmp 0 2147483648).WF 32 := by decide
theorem test_wf_boundary : (Instr.moveregreg (-2147483648) 2147483647).WF 32 ∧ (Instr.ret).WF 8 := by decide
theorem test_config_word : ¬ Config.WF { small with W := 7 } := by decide
theorem test_config_memory : ¬ Config.WF { small with memSize := 1 } ∧ ¬ Config.WF { small with memSize := 128 } ∧
    Config.WF { small with memSize := 127 } := by decide
theorem test_config_registers : ¬ Config.WF { small with nregs := 0 } ∧ ¬ Config.WF { small with nregs := 128 } := by
  decide
theorem test_config_stack : ¬ Config.WF { small with stackBottom := 15 } ∧
    ¬ Config.WF { small with stackTopInit := 17 } ∧ ¬ Config.WF { small with stackBottom := -1 } ∧
    Config.WF { small with stackBottom := 14 } := by decide
theorem test_config_entry : ¬ Config.WF { small with entry := 128 } ∧ Config.WF Config.test := by decide

/-! ### Decoding: word 0 is the opcode of R75 in 32 bits, the operand words follow above it -/

theorem test_decode_add : decodeTableWord 64 0x0000003200000000 = some (.add 50) := by decide
theorem test_decode_sub : decodeTableWord 64 0x0000003300000001 = some (.sub 51) := by decide
theorem test_decode_jmp : decodeTableWord 64 0xfffffff900000002 = some (.jmp (-7)) := by decide
theorem test_decode_jz : decodeTableWord 64 0x0000002800000003 = some (.jz 40) := by decide
theorem test_decode_jn : decodeTableWord 64 0x0000002900000004 = some (.jn 41) := by decide
theorem test_decode_read : decodeTableWord 64 0x0000007f00000005 = some (.read 127) := by decide
theorem test_decode_store : decodeTableWord 64 0x0000003400000006 = some (.store 52) := by decide
theorem test_decode_ldi : decodeTableWord 64 0xfffffffb00000007 = some (.ldi (-5)) := by decide
theorem test_decode_inc : decodeTableWord 32 0x00000008 = some .inc := by decide
theorem test_decode_moveregreg : decodeTableWord 96 0x000000020000000100000009 = some (.moveregreg 1 2) := by decide
theorem test_decode_call : decodeTableWord 64 0x000000280000000a = some (.call 40) := by decide
theorem test_decode_ret : decodeTableWord 32 0x0000000b = some .ret := by decide
theorem test_decode_addregreg : decodeTableWord 96 0x00000001000000030000000c = some (.addregreg 3 1) := by decide
theorem test_decode_subregreg : decodeTableWord 96 0x00000001000000000000000d = some (.subregreg 0 1) := by decide
theorem test_decode_jnz : decodeTableWord 64 0x0000002a0000000e = some (.jnz 42) := by decide
theorem test_decode_incmem : decodeTableWord 64 0x000000350000000f = some (.incmem 53) := by decide
theorem test_decode_addregmem : decodeTableWord 96 0x000000320000000200000010 = some (.addregmem 2 50) := by decide
theorem test_decode_subregmem : decodeTableWord 96 0xffffffff0000000300000011 = some (.subregmem 3 (-1)) := by decide
theorem test_decode_cmp : decodeTableWord 96 0x000000000000000200000012 = some (.cmp 2 0) := by decide
theorem test_decode_je : decodeTableWord 64 0x0000002b00000013 = some (.je 43) := by decide
theorem test_decode_jne : decodeTableWord 64 0x0000002c00000014 = some (.jne 44) := by decide
theorem test_decode_short : decodeTableWord 32 0x00000012 = some (.cmp 0 0) := by decide
theorem test_decode_reserved : decodeTableWord 32 0x00000015 = none ∧ decodeTableWord 32 0xffffffff = none ∧
    decodeTableWord 32 0x80000000 = none := by decide
theorem test_decode_upper_bits : decodeTableWord 32 0x00000100 = none ∧ decodeTableWord 32 0x80000008 = none := by decide

/-! ### One step of each instruction (95_test_vectors.md section 3; the name of the vector stands beside) -/

/-- V-41-1 -/
theorem test_add :
    look (step (start [0, 50] [(50, -9)] [7, 0, 0, 0] 0)) core3 =
      some ([-2, 0, 0, 0], 2, 2) := by decide
/-- V-41-2 -/
theorem test_add_wraps :
    look (step (start [0, 50] [(50, 1)] [2147483647, 0, 0, 0] 0)) core3 =
      some ([-2147483648, 0, 0, 0], 2, 2) := by decide
/-- V-41-7 -/
theorem test_sub :
    look (step (start [1, 50] [(50, 3)] [5, 0, 0, 0] 1)) core3 =
      some ([2, 0, 0, 0], 0, 2) := by decide
/-- V-41-6 -/
theorem test_sub_zero :
    look (step (start [1, 50] [(50, 7)] [7, 0, 0, 0] 2)) core3 =
      some ([0, 0, 0, 0], 1, 2) := by decide
/-- V-41-11 -/
theorem test_inc :
    look (step (start [8] [] [2147483647, 0, 0, 0] 0)) core3 =
      some ([-2147483648, 0, 0, 0], 2, 1) := by decide
/-- V-42-3 -/
theorem test_jmp :
    look (step (start [2, -7] [] [0, 0, 0, 0] 0)) core3 =
      some ([0, 0, 0, 0], 0, -7) := by decide
/-- V-42-4 -/
theorem test_jz_taken :
    look (step (start [3, 40] [] [0, 0, 0, 0] 1)) (fun t => (t.pc, t.sm0, t.sm1, t.flags)) =
      some (40, 2, 40, 1) := by decide
/-- V-42-5 -/
theorem test_jz_not_taken :
    look (step (start [3, 40] [] [0, 0, 0, 0] 2)) (fun t => (t.pc, t.sm0, t.sm1, t.flags)) =
      some (2, 2, 40, 2) := by decide
/-- V-42-7 -/
theorem test_jn_taken :
    look (step (start [4, 40] [] [0, 0, 0, 0] 2)) (fun t => (t.pc, t.sm0, t.sm1, t.flags)) =
      some (40, 2, 40, 2) := by decide
/-- V-42-8 -/
theorem test_jn_not_taken :
    look (step (start [4, 40] [] [0, 0, 0, 0] 1)) (fun t => (t.pc, t.sm0, t.sm1, t.flags)) =
      some (2, 2, 40, 1) := by decide
/-- V-42-10 -/
theorem test_jnz_taken :
    look (step (start [14, 40] [] [0, 0, 0, 0] 2)) (fun t => (t.pc, t.sm0, t.sm1, t.flags)) =
      some (40, 40, 2, 2) := by decide
/-- V-42-11 -/
theorem test_jnz_not_taken :
    look (step (start [14, 40] [] [0, 0, 0, 0] 1)) (fun t => (t.pc, t.sm0, t.sm1, t.flags)) =
      some (2, 40, 2, 1) := by decide
/-- V-42-12 -/
theorem test_je_taken :
    look (step (start [19, 40] [] [0, 0, 0, 0] 1)) (fun t => (t.pc, t.sm0, t.sm1, t.flags)) =
      some (40, 2, 40, 1) := by decide
/-- V-42-13 -/
theorem test_je_not_taken :
    look (step (start [19, 40] [] [0, 0, 0, 0] 0)) (fun t => (t.pc, t.sm0, t.sm1, t.flags)) =
      some (2, 2, 40, 0) := by decide
/-- V-42-15 -/
theorem test_jne_taken :
    look (step (start [20, 40] [] [0, 0, 0, 0] 0)) (fun t => (t.pc, t.sm0, t.sm1, t.flags)) =
      some (40, 40, 2, 0) := by decide
/-- V-42-14 -/
theorem test_jne_not_taken :
    look (step (start [20, 40] [] [0, 0, 0, 0] 1)) (fun t => (t.pc, t.sm0, t.sm1, t.flags)) =
      some (2, 40, 2, 1) := by decide
/-- V-43-1 -/
theorem test_read :
    look (step (start [5, 50] [(50, 123)] [0, 0, 0, 0] 0)) core3 =
      some ([123, 0, 0, 0], 0, 2) := by decide
/-- V-43-3 -/
theorem test_store :
    look (step (start [6, 50] [] [77, 0, 0, 0] 0)) (fun t => (t.cell 50, t.reg 0, t.pc, t.pend)) =
      some (77, 77, 2, none) := by decide
/-- V-43-5 -/
theorem test_ldi :
    look (step (start [7, -5] [] [0, 0, 0, 0] 0)) core3 =
      some ([-5, 0, 0, 0], 0, 2) := by decide
/-- V-43-6 -/
theorem test_incmem :
    look (step (start [15, 50] [(50, 9)] [5, 0, 0, 0] 0)) (fun t => (t.cell 50, t.x, t.ext, t.acc0, t.iba)) =
      some (10, [5, 0, 0, 0], 10, 5, 1) := by decide
/-- V-43-7 -/
theorem test_incmem_wraps :
    look (step (start [15, 50] [(50, 2147483647)] [0, 0, 0, 0] 1)) (fun t => (t.cell 50, t.flags)) =
      some (-2147483648, 1) := by decide
/-- V-44-1 -/
theorem test_moveregreg :
    look (step (start [9, 1, 2] [] [0, 11, 22, 33] 0)) core3 =
      some ([0, 11, 11, 33], 0, 3) := by decide
/-- V-44-4 -/
theorem test_moveregreg_to_reg0 :
    look (step (start [9, 3, 0] [] [5, 11, 22, 33] 0)) core3 =
      some ([33, 11, 22, 33], 0, 3) := by decide
/-- V-44-6, source and destination the same -/
theorem test_addregreg :
    look (step (start [12, 2, 2] [] [0, 11, 22, 33] 0)) core3 =
      some ([0, 11, 44, 33], 0, 3) := by decide
/-- V-44-7 -/
theorem test_addregreg_wraps :
    look (step (start [12, 1, 2] [] [0, 2147483647, 1, 33] 0)) core3 =
      some ([0, 2147483647, -2147483648, 33], 2, 3) := by decide
/-- V-44-8 -/
theorem test_subregreg :
    look (step (start [13, 1, 2] [] [0, 11, 22, 33] 0)) core3 =
      some ([0, 11, -11, 33], 2, 3) := by decide
/-- V-44-10 -/
theorem test_subregreg_reg0 :
    look (step (start [13, 0, 1] [] [5, 11, 22, 33] 0)) core3 =
      some ([5, -6, 22, 33], 2, 3) := by decide
/-- V-44-11 -/
theorem test_addregmem :
    look (step (start [16, 2, 50] [(50, 100)] [5, 11, 22, 33] 0)) core3 =
      some ([5, 11, 122, 33], 0, 3) := by decide
/-- V-44-13 -/
theorem test_addregmem_keeps_flags :
    look (step (start [16, 1, 50] [(50, -11)] [5, 11, 22, 33] 2)) core3 =
      some ([5, 0, 22, 33], 2, 3) := by decide
/-- V-44-14 -/
theorem test_subregmem :
    look (step (start [17, 3, 50] [(50, 100)] [5, 11, 22, 33] 0)) core3 =
      some ([5, 11, 22, -67], 0, 3) := by decide
/-- V-44-15 -/
theorem test_subregmem_reg0 :
    look (step (start [17, 0, 50] [(50, 5)] [5, 11, 22, 33] 0)) core3 =
      some ([0, 11, 22, 33], 0, 3) := by decide
/-- V-44-17 -/
theorem test_cmp :
    look (step (start [18, 1, 2] [] [0, 11, 22, 33] 0)) core3 =
      some ([0, 11, 22, 33], 2, 3) := by decide
/-- V-44-18 -/
theorem test_cmp_overflow :
    look (step (start [18, 1, 2] [] [0, -2147483648, 1, 33] 0)) core3 =
      some ([0, -2147483648, 1, 33], 0, 3) := by decide
/-- V-45-1 -/
theorem test_call :
    look (step (start [10, 40] [] [0, 0, 0, 0] 0)) (fun t => (t.stkTop, t.cell 111, t.pc, t.sm0, t.sm1)) =
      some (111, 2, 40, 0, 40) := by decide
/-- V-X14 -/
theorem test_call_full :
    look (step { start [10, 40] with stkTop := 96 }) (fun t => (t.run, t.pc, t.stkTop)) =
      some (.faulted .stackOverflow 96, 2, 96) := by decide
/-- V-45-3 -/
theorem test_ret :
    look (step { start [11] [(111, 2)] with stkTop := 111 }) (fun t => (t.pc, t.stkTop)) =
      some (2, 112) := by decide
/-- V-X15 -/
theorem test_ret_empty :
    look (step (start [11] [] [0, 0, 0, 0] 0)) (fun t => (t.run, t.pc)) =
      some (.faulted .stackUnderflow 112, 0) := by decide

/-! ### Errors and the halt -/

/-- V-H2 -/
theorem test_halt :
    look (step (start [21] [] [0, 0, 0, 0] 0)) (fun t => (t.run, t.pc, t.ir)) =
      some (.halted, 0, 21) := by decide
/-- V-X1 -/
theorem test_fetch_outside :
    look (step { start [7, -5] with pc := 128 }) (fun t => (t.run, t.ir)) =
      some (.faulted .outOfBoundsAddress 128, 0) := by decide
/-- V-X6 -/
theorem test_operand_outside :
    look (step { start [] [(127, 7)] with pc := 127 }) (fun t => (t.run, t.pc)) =
      some (.faulted .outOfBoundsAddress 128, 128) := by decide
/-- V-X3 -/
theorem test_data_address :
    look (step (start [0, -3] [] [0, 0, 0, 0] 0)) (fun t => (t.run, t.pc)) =
      some (.faulted .outOfBoundsAddress (-3), 1) := by decide
/-- V-X12 -/
theorem test_register_before_address :
    look (step (start [16, 9, 500] [] [0, 0, 0, 0] 0)) (fun t => (t.run, t.pc)) =
      some (.faulted .invalidRegisterId 9, 1) := by decide
/-- V-X10 -/
theorem test_second_register :
    look (step (start [9, 0, -1] [] [5, 11, 22, 33] 0)) (fun t => (t.run, t.pc, t.x)) =
      some (.faulted .invalidRegisterId (-1), 2, [5, 11, 22, 33]) := by decide

/-! ### From a table word to a run from reset; a launch, its refusals, the inspection surface -/

theorem test_fetch_word : look (step (State.reset.withFetchWord 64 0xfffffffb00000007)) core3 =
    some ([-5, 0, 0, 0], 0, 2) := by decide
theorem test_launch_inspect :
    (match launch small [(0, 7), (15, -1)] with
     | .next s => some ((inspect s).mem.length, (inspect s).mem.getLast?, (inspect s).halted, stackPeek s)
     | _ => none) = some (16, some (-1), false, 14) := by decide
/-- V-S1, to the halt: `x[0] = 14` and `PC = 5`. -/
theorem test_run_to_halt :
    (match runToHalt 4 (start [7, 10, 8, 0, 6, -1, 3]) with
     | .next s => some (s.reg 0, s.pc, s.endedNormally)
     | _ => none) = some (14, 5, true) := by decide

/-- R7: at `N = W` a Word is its own extension; below, the sign or zeros fill the upper bits. -/
theorem test_extensions :
    zextN 32 32 (-1) = -1 ∧ zextN 32 8 (-1) = 255 ∧ sextN 32 8 255 = -1 ∧ sextN 32 8 127 = 127 := by decide
/-- R206, U10: the stack's `reset()` at machine reset, mid-run, and of a halted machine. -/
theorem test_stack_reset :
    stackReset (start [11]) = .next (start [11]) ∧
    stackReset { start [11] [(111, 2)] with stkTop := 111 } = .refused .stackResetAfterStart ∧
    stackReset (start [11]).halt = .refused .stackResetAfterStart := ⟨rfl, if_neg (by decide), if_neg (by decide)⟩

/-! ### Witnesses: for every statement with hypotheses, a state and operands that meet them, each clause at a boundary -/

/-- RUNNING, well-formed, `PC` inside memory. -/
abbrev Ready (s : State) : Prop := s.WF ∧ s.run = .running ∧ ValidAddress s.cfg s.pc

/-- `PC = 0`, the words of an ADD, registers in use. -/
def demo : State := start [0, 50] [(50, -9)] [7, 11, 22, 33] 2
/-- `PC` at the last cell, an INC there. -/
def atLast : State := { start [] [(127, 8)] with pc := 127 }
/-- `PC` at the last cell but one, a CMP there with one operand word in memory. -/
def atLastButOne : State := { start [] [(126, 18), (127, 1)] with pc := 126 }
/-- `PC` so that a three-word instruction just fits. -/
def threeLeft : State := { start [] [(125, 12), (126, 1), (127, 2)] with pc := 125 }
/-- A full stack. -/
def fullStack : State := { start [10, 40] with stkTop := 96 }
/-- A stack holding one return address. -/
def oneOnStack : State := { start [11] [(111, 2)] with stkTop := 111 }
/-- `demo` with other residue. -/
def otherResidue : State :=
  { demo with ext := 1, iba := 2, ibb := 3, acc0 := 4, acc1 := 5, sm0 := 6, sm1 := 7, sel := 3 }

theorem witness_DecodeOfEncodedBits : 8 ≤ 8 ∧ (Instr.ldi (-128)).WF 8 ∧ (Instr.cmp 127 (-1)).WF 8 := by
  (repeat' apply And.intro) <;> decide
theorem witness_EncodeOfDecodedBits :
    8 ≤ 8 ∧ 0xffff07 < 2 ^ (8 * maxLength) ∧ decodeBits 8 (8 * maxLength) 0xffff07 = some (.ldi (-1)) := by decide
theorem witness_OpcodeMapIsComplete :
    ((0 : Int) ≤ 0 ∧ (0 : Int) ≤ 20) ∧ ((0 : Int) ≤ 20 ∧ (20 : Int) ≤ 20) ∧ ¬ ((0 : Int) ≤ 21 ∧ (21 : Int) ≤ 20) ∧
    ¬ ((0 : Int) ≤ -1 ∧ (-1 : Int) ≤ 20) := by decide
theorem witness_MemoryReadMicroOp :
    demo.run = .running ∧ ValidAddress (putExt 127 demo).cfg (putExt 127 demo).ext ∧ ValidAddress (putExt 0 demo).cfg (putExt 0 demo).ext ∧
    ¬ ValidAddress (putExt 128 demo).cfg (putExt 128 demo).ext ∧
    ¬ ValidAddress (putExt (-1) demo).cfg (putExt (-1) demo).ext := by decide
theorem witness_StoreAddressPhase :
    (putExt 127 demo).pend = none ∧ ValidAddress (putExt 127 demo).cfg (putExt 127 demo).ext ∧
    (putExt 128 demo).pend = none ∧ ¬ ValidAddress (putExt 128 demo).cfg (putExt 128 demo).ext := by decide
theorem witness_TwoPhaseStore :
    Memory.wf demo.mem ∧ demo.run = .running ∧ demo.pend = none ∧ ValidAddress demo.cfg 0 ∧
    ValidAddress demo.cfg 127 ∧ ¬ ValidAddress demo.cfg 128 ∧ ¬ ValidAddress demo.cfg (-1) ∧
    Memory.wf { demo with pend := some 127 }.mem ∧ { demo with pend := some 127 }.run = .running ∧
    { demo with pend := some 127 }.pend = some 127 := by decide
theorem witness_ArithmeticCornerCases : 8 ≤ 8 ∧ Fits 8 (-128) ∧ Fits 8 127 := by decide
theorem witness_DemuxSelectsRegister :
    (0 ≤ (putExt 3 demo).ext ∧ (putExt 3 demo).ext < ((putExt 3 demo).cfg.nregs : Int)) ∧
    ¬ (0 ≤ (putExt 4 demo).ext ∧ (putExt 4 demo).ext < ((putExt 4 demo).cfg.nregs : Int)) ∧
    ¬ (0 ≤ (putExt (-1) demo).ext ∧ (putExt (-1) demo).ext < ((putExt (-1) demo).cfg.nregs : Int)) := by decide
theorem witness_FlagUpdatePolicy : 2 ≤ 2 := by decide
theorem witness_StackPointerMicroOps :
    fullStack.stkTop - 1 < fullStack.stkBot ∧ ¬ { demo with stkTop := 97 }.stkTop - 1 < { demo with stkTop := 97 }.stkBot ∧
    demo.stkTop = demo.cfg.stackTopInit ∧ oneOnStack.stkTop ≠ oneOnStack.cfg.stackTopInit := by decide
theorem witness_PushWritesBelowTop :
    Ready fullStack ∧ fullStack.stkTop = fullStack.stkBot ∧ Ready { demo with stkTop := 97 } ∧
    { demo with stkTop := 97 }.stkTop ≠ { demo with stkTop := 97 }.stkBot ∧ Ready demo ∧ demo.stkTop ≠ demo.stkBot := by
  (repeat' apply And.intro) <;> decide
theorem witness_PopReadsTop :
    Ready demo ∧ demo.stkTop = demo.cfg.stackTopInit ∧ Ready oneOnStack ∧
    oneOnStack.stkTop ≠ oneOnStack.cfg.stackTopInit ∧ Ready fullStack ∧
    fullStack.stkTop ≠ fullStack.cfg.stackTopInit := by
  (repeat' apply And.intro) <;> decide
/-- A whole stack of 16 pushes. -/
theorem witness_StackRoundTrip :
    Ready demo ∧ ((List.replicate 16 (-1 : Int)).length : Int) ≤ demo.stkTop - demo.stkBot := by
  (repeat' apply And.intro) <;> decide
theorem witness_LoaderContract : Config.test.WF ∧ ImageFits Config.test [(0, 7), (127, -2147483648)] := by
  (repeat' apply And.intro) <;> decide
theorem witness_ResetChosenValues :
    (∃ s, launch Config.test [(0, 7), (127, -1)] = .next s) ∧
    (1 : Int) ∉ ([(0, 7), (127, -1)] : Image).map Prod.fst := ⟨⟨_, rfl⟩, by decide⟩
theorem witness_LaunchRefusals :
    ¬ Config.WF { small with W := 7 } ∧ small.WF ∧ ¬ ImageFits small [(16, 0)] ∧ ¬ ImageFits small [(-1, 0)] ∧
    ¬ ImageFits small [(3, 1), (3, 2)] ∧ ¬ ImageFits small [(3, 128)] ∧ ImageFits small [(15, -128)] := by
  (repeat' apply And.intro) <;> decide
theorem witness_LaunchIsWellFormed : ∃ s, launch small [(15, 127)] = .next s := ⟨_, rfl⟩
theorem witness_StepKeepsWellFormed : demo.WF ∧ ∃ t, step demo = .next t := ⟨by decide, _, rfl⟩
theorem witness_StepRunsDecodedInstruction :
    Ready demo ∧ decode [demo.cell demo.pc, demo.cell (demo.pc + 1), demo.cell (demo.pc + 2)] = .ok (.add 50, [0]) ∧
    Ready atLast ∧ HoldsAtPc atLast .inc ∧ Ready threeLeft ∧ HoldsAtPc threeLeft (.addregreg 1 2) :=
  ⟨by decide, by decide, by decide, ⟨by decide, by decide, trivial⟩, by decide,
    ⟨by decide, by decide, by decide, by decide, by decide, by decide, trivial⟩⟩
theorem witness_StepHaltsOnUnrecognizedOpcode :
    Ready (start [21]) ∧ ¬ (0 ≤ (start [21]).cell (start [21]).pc ∧ (start [21]).cell (start [21]).pc ≤ 20) ∧
    Ready (start [-1]) ∧ ¬ (0 ≤ (start [-1]).cell (start [-1]).pc ∧ (start [-1]).cell (start [-1]).pc ≤ 20) := by
  (repeat' apply And.intro) <;> decide
theorem witness_FetchReadsOpcodeOrFaults :
    Ready atLast ∧ { demo with pc := 128 }.WF ∧ { demo with pc := 128 }.run = .running ∧
    ¬ ValidAddress { demo with pc := 128 }.cfg { demo with pc := 128 }.pc ∧
    { demo with pc := -1 }.WF ∧ ¬ ValidAddress { demo with pc := -1 }.cfg { demo with pc := -1 }.pc := by
  (repeat' apply And.intro) <;> decide
theorem witness_NoStepWhenEnded :
    demo.halt.cfg.WF ∧ demo.halt.run = .halted ∧
    (demo.raise .stackOverflow 96).cfg.WF ∧ (demo.raise .stackOverflow 96).run = .faulted .stackOverflow 96 ∧
    { demo with pend := some 3 }.cfg.WF ∧ { demo with pend := some 3 }.run = .running ∧
    { demo with pend := some 3 }.pend ≠ none ∧ ¬ Config.WF { small with W := 7 } := by
  (repeat' apply And.intro) <;> decide
theorem witness_StepIsMicroprogramFromMemory :
    Ready demo ∧ 0 ≤ demo.cell demo.pc ∧ microprogram (demo.cell demo.pc).toNat = some (addProgram none) ∧
    Ready atLastButOne ∧ 0 ≤ atLastButOne.cell atLastButOne.pc ∧
    microprogram (atLastButOne.cell atLastButOne.pc).toNat = some (cmpProgram none none) := by
  (repeat' apply And.intro) <;> decide
/-- A state that completes, and one that raises. -/
theorem witness_StepRefinesArchitecture :
    Ready demo ∧ (∃ u, archStep demo.arch = .done u) ∧ Ready fullStack ∧
    ∃ v, archStep fullStack.arch = .raised .stackOverflow v := ⟨by decide, ⟨_, rfl⟩, by decide, _, rfl⟩
theorem witness_ResidueIndependence :
    demo.WF ∧ otherResidue.WF ∧ demo.arch = otherResidue.arch ∧ demo.ir = otherResidue.ir ∧ demo ≠ otherResidue ∧
    ∃ t, step demo = .next t := ⟨by decide, by decide, by decide, by decide, by decide, _, rfl⟩
theorem witness_FaultsArePrecise :
    fullStack.WF ∧ ∃ t, step fullStack = .next t ∧ t.run = .faulted .stackOverflow 96 := ⟨by decide, _, rfl, by decide⟩
theorem witness_ConfigurationIsConstant : ∃ t, step demo = .next t := ⟨_, rfl⟩
theorem witness_FlagWriters : (Instr.ldi 5).opcode ∉ [0, 1, 8, 12, 13, 18] ∧ ∃ t, exec (.ldi 5) demo = .next t :=
  ⟨by decide, _, rfl⟩
theorem witness_StackPointerWriters : (Instr.ldi 5).opcode ∉ [10, 11] ∧ ∃ t, exec (.ldi 5) demo = .next t :=
  ⟨by decide, _, rfl⟩
theorem witness_MemoryWriters : (Instr.ldi 5).opcode ∉ [6, 10, 15] ∧ ∃ t, exec (.ldi 5) demo = .next t :=
  ⟨by decide, _, rfl⟩
theorem witness_RegisterWriters :
    demo.WF ∧ (∃ t, exec (.add 50) demo = .next t) ∧ (∃ t, exec (.addregreg 1 3) demo = .next t) ∧
    (∃ t, exec (.addregmem 2 50) demo = .next t) ∧ ∃ t, exec (.cmp 1 2) demo = .next t :=
  ⟨by decide, ⟨_, rfl⟩, ⟨_, rfl⟩, ⟨_, rfl⟩, _, rfl⟩
theorem witness_StoredCells :
    demo.WF ∧ (∃ t, exec (.store 127) demo = .next t ∧ t.run = .running) ∧
    (∃ t, exec (.incmem 0) demo = .next t ∧ t.run = .running) ∧
    ∃ t, exec (.call 40) demo = .next t ∧ t.run = .running :=
  ⟨by decide, ⟨_, rfl, by decide⟩, ⟨_, rfl, by decide⟩, _, rfl, by decide⟩

/-- The clauses of the statements of ADD, SUB, READ, STORE and INCMEM: every word and the data address exist, the last
cell and the first among them; no operand word; no cell at the address. -/
abbrev DataAddressHypotheses : Prop :=
  (Ready demo ∧ ValidAddress demo.cfg (demo.pc + 1) ∧ ValidAddress demo.cfg 0 ∧ ValidAddress demo.cfg 127) ∧
  (Ready atLastButOne ∧ ValidAddress atLastButOne.cfg (atLastButOne.pc + 1)) ∧
  (Ready atLast ∧ ¬ ValidAddress atLast.cfg (atLast.pc + 1)) ∧
  ¬ ValidAddress demo.cfg 128 ∧ ¬ ValidAddress demo.cfg (-1)

theorem witness_AddResult : DataAddressHypotheses := by
  (repeat' apply And.intro) <;> decide
theorem witness_SubResult : DataAddressHypotheses := witness_AddResult
theorem witness_ReadResult : DataAddressHypotheses := witness_AddResult
theorem witness_StoreResult : DataAddressHypotheses := witness_AddResult
theorem witness_IncmemResult : DataAddressHypotheses := witness_AddResult
theorem witness_IncResult : Ready demo ∧ Ready atLast := by
  (repeat' apply And.intro) <;> decide

/-- The clauses of the statements of the jumps and LDI: the operand word exists, or not. -/
abbrev OperandWordHypotheses : Prop :=
  (Ready atLastButOne ∧ ValidAddress atLastButOne.cfg (atLastButOne.pc + 1)) ∧
  (Ready atLast ∧ ¬ ValidAddress atLast.cfg (atLast.pc + 1))

theorem witness_JmpResult : OperandWordHypotheses := by
  (repeat' apply And.intro) <;> decide
theorem witness_LdiResult : OperandWordHypotheses := witness_JmpResult
theorem witness_JzJeResult :
    (Instr.jz 40 = .jz 40 ∨ Instr.jz 40 = .je 40) ∧ (Instr.je 40 = .jz 40 ∨ Instr.je 40 = .je 40) ∧
    OperandWordHypotheses := by
  (repeat' apply And.intro) <;> decide
theorem witness_JnResult : OperandWordHypotheses := witness_JmpResult
theorem witness_JnzJneResult :
    (Instr.jnz 40 = .jnz 40 ∨ Instr.jnz 40 = .jne 40) ∧ (Instr.jne 40 = .jnz 40 ∨ Instr.jne 40 = .jne 40) ∧
    OperandWordHypotheses := by
  (repeat' apply And.intro) <;> decide

/-- Both operand words exist, the last cell among them, and both ids are registers, the first and the last. -/
abbrev RegisterPairHypotheses : Prop :=
  Ready threeLeft ∧ ValidAddress threeLeft.cfg (threeLeft.pc + 2) ∧ ValidRegister threeLeft.cfg 0 ∧
  ValidRegister threeLeft.cfg 3

theorem witness_MoveregregResult : RegisterPairHypotheses := by
  (repeat' apply And.intro) <;> decide
theorem witness_AddregregResult : RegisterPairHypotheses := witness_MoveregregResult
theorem witness_SubregregResult : RegisterPairHypotheses := witness_MoveregregResult
theorem witness_CmpResult : RegisterPairHypotheses := witness_MoveregregResult
theorem witness_CmpDecidesEquality : RegisterPairHypotheses ∧ ∃ t, exec (.cmp 0 3) threeLeft = .next t :=
  ⟨witness_MoveregregResult, _, rfl⟩
theorem witness_AddregmemResult : RegisterPairHypotheses ∧ ValidAddress threeLeft.cfg 127 := by
  (repeat' apply And.intro) <;> decide
theorem witness_SubregmemResult : RegisterPairHypotheses ∧ ValidAddress threeLeft.cfg 0 := by
  (repeat' apply And.intro) <;> decide

/-- The four faults of a two-operand instruction whose first operand is a register, all but the last operand's. -/
abbrev RegisterFaultHypotheses : Prop :=
  (Ready atLast ∧ ¬ ValidAddress atLast.cfg (atLast.pc + 1)) ∧
  (Ready atLastButOne ∧ ValidAddress atLastButOne.cfg (atLastButOne.pc + 1) ∧ ¬ ValidRegister atLastButOne.cfg 4) ∧
  (ValidRegister atLastButOne.cfg 3 ∧ ¬ ValidAddress atLastButOne.cfg (atLastButOne.pc + 2)) ∧
  (Ready threeLeft ∧ ValidAddress threeLeft.cfg (threeLeft.pc + 2) ∧ ValidRegister threeLeft.cfg 0)

theorem witness_RegisterPairFaults :
    Instr.cmp 0 (-1) ∈ [Instr.moveregreg 0 (-1), .addregreg 0 (-1), .subregreg 0 (-1), .cmp 0 (-1)] ∧
    RegisterFaultHypotheses ∧ ¬ ValidRegister threeLeft.cfg (-1) ∧ ¬ ValidRegister threeLeft.cfg 4 := by
  (repeat' apply And.intro) <;> decide
theorem witness_RegisterMemoryFaults :
    Instr.subregmem 0 128 ∈ [Instr.addregmem 0 128, .subregmem 0 128] ∧
    RegisterFaultHypotheses ∧ ¬ ValidAddress threeLeft.cfg 128 := by
  (repeat' apply And.intro) <;> decide
theorem witness_CallResult :
    (Ready demo ∧ ValidAddress demo.cfg (demo.pc + 1) ∧ demo.stkTop ≠ demo.stkBot) ∧
    (Ready { demo with stkTop := 97 } ∧ { demo with stkTop := 97 }.stkTop ≠ { demo with stkTop := 97 }.stkBot) ∧
    (Ready fullStack ∧ ValidAddress fullStack.cfg (fullStack.pc + 1) ∧ fullStack.stkTop = fullStack.stkBot) ∧
    (Ready atLast ∧ ¬ ValidAddress atLast.cfg (atLast.pc + 1)) := by
  (repeat' apply And.intro) <;> decide
theorem witness_RetResult :
    (Ready oneOnStack ∧ oneOnStack.stkTop ≠ oneOnStack.cfg.stackTopInit) ∧
    (Ready fullStack ∧ fullStack.stkTop ≠ fullStack.cfg.stackTopInit) ∧
    (Ready demo ∧ demo.stkTop = demo.cfg.stackTopInit) := by
  (repeat' apply And.intro) <;> decide
/-- The state the CALL left is itself such a `u`. -/
theorem witness_CallThenRetReturns :
    demo.WF ∧ ∃ t, exec (.call 40) demo = .next t ∧ t.run = .running ∧ t.WF :=
  ⟨by decide, _, rfl, by decide, by decide⟩
theorem witness_MicroOpCounts : 21 ≤ 21 := by decide

end Sys2Proof.Tests
end

section
/-! # Single micro-operations as equations, and a program per instruction (R91 to R108, R111) -/

namespace Sys2Proof.Machine

variable (s : State)

@[simp] theorem microStep_read_pc : microStep (.read .pc) s = { s with ext := s.pc } := rfl
@[simp] theorem microStep_read_reg0 : microStep (.read .reg0) s = { s with ext := s.reg 0 } := rfl
@[simp] theorem microStep_read_stkTop : microStep (.read .stkTop) s = { s with ext := s.stkTop } := rfl
@[simp] theorem microStep_store_pc : microStep (.store .pc) s = { s with pc := s.ext } := rfl
@[simp] theorem microStep_store_ir : microStep (.store .ir) s = { s with ir := s.ext } := rfl
@[simp] theorem microStep_store_reg0 : microStep (.store .reg0) s = s.setReg 0 s.ext := rfl
@[simp] theorem microStep_internalRead_pc : microStep (.internalRead .pc) s = { s with iba := s.pc } := rfl
@[simp] theorem microStep_internalRead_ir : microStep (.internalRead .ir) s = { s with iba := s.ir } := rfl
@[simp] theorem microStep_internalRead_reg0 : microStep (.internalRead .reg0) s = { s with iba := s.reg 0 } := rfl
@[simp] theorem microStep_internalStore_pc : microStep (.internalStore .pc) s = { s with pc := s.ibb } := rfl
@[simp] theorem microStep_internalStore_reg0 : microStep (.internalStore .reg0) s = s.setReg 0 s.ibb := rfl
@[simp] theorem microStep_aluStoreOperand (k : Slot) : microStep (.aluStoreOperand k) s = s.setAcc k s.iba := rfl
@[simp] theorem microStep_aluInternalReadOperand (k : Slot) :
    microStep (.aluInternalReadOperand k) s = { s with ibb := s.acc k } := rfl
@[simp] theorem microStep_alu (op : AluOp) :
    microStep (.alu op) s = { s with acc1 := aluResult s.cfg.W op s.acc0 s.acc1 } := rfl
@[simp] theorem microStep_demuxSetValue : microStep .demuxSetValue s = demuxSetValueStep s := rfl
@[simp] theorem microStep_demuxInternalRead :
    microStep .demuxInternalRead s = { s with iba := s.reg s.sel } := rfl
@[simp] theorem microStep_demuxInternalStore : microStep .demuxInternalStore s = s.setReg s.sel s.ibb := rfl
@[simp] theorem microStep_smStoreIn_zero : microStep (.smStoreIn .zero) s = { s with sm0 := s.ext } := rfl
@[simp] theorem microStep_smStoreIn_one : microStep (.smStoreIn .one) s = { s with sm1 := s.ext } := rfl
@[simp] theorem microStep_smSelect (b : SelectInput) :
    microStep (.smSelect b) s = { s with ext := if selectBit s b then s.sm1 else s.sm0 } := rfl
@[simp] theorem microStep_flagsUpdate : microStep .flagsUpdate s = s.setFlags s.ibb := rfl
@[simp] theorem microStep_memRead : microStep .memRead s = memReadStep (s.cell s.ext) s := rfl
@[simp] theorem microStep_memStore : microStep .memStore s = memStoreStep s := rfl
@[simp] theorem microStep_operandRead (w : Int) : microStep (.operandRead w) s = memReadStep w s := rfl
@[simp] theorem microStep_stkDecTop : microStep .stkDecTop s = stkDecTopStep s := rfl
@[simp] theorem microStep_stkCheckNotEmpty : microStep .stkCheckNotEmpty s = stkCheckNotEmptyStep s := rfl
@[simp] theorem microStep_stkIncTop : microStep .stkIncTop s = { s with stkTop := s.stkTop + 1 } := rfl

theorem runMicro_memRead_valid {s : State} (hr : s.run = .running) (ha : ValidAddress s.cfg s.ext)
    (ops : List MicroOp) : runMicro (.memRead :: ops) s = runMicro ops { s with ext := s.cell s.ext } := by
  rw [runMicro_cons hr, microStep_memRead, memReadStep_valid ha]

theorem runMicro_memRead_invalid {s : State} (hr : s.run = .running) (ha : ¬ ValidAddress s.cfg s.ext)
    (ops : List MicroOp) : runMicro (.memRead :: ops) s = s.raise .outOfBoundsAddress s.ext := by
  rw [runMicro_cons hr, microStep_memRead, memReadStep_invalid ha, runMicro_raise]

/-- What the two phases of a store leave, the data read from port `r` (R43, R44). -/
def afterStore (r : ReadPort) (s : State) : State :=
  { (readStep r s).writeCell s.ext (readStep r s).ext with pend := none }

/-- R43 to R45: both phases of a store at a valid address, with the data read onto the bus between them. -/
theorem runMicro_store_valid {s : State} (hr : s.run = .running) (hp : s.pend = none) (ha : ValidAddress s.cfg s.ext)
    (r : ReadPort) (ops : List MicroOp) :
    runMicro (.memStore :: .read r :: .memStore :: ops) s =
      runMicro ops (afterStore r s) := by
  have hread : microStep (.read r) { s with pend := some s.ext } = { readStep r s with pend := some s.ext } := by
    cases r <;> rfl
  have hrun : (readStep r s).run = .running := by cases r <;> exact hr
  rw [runMicro_cons hr, microStep_memStore, memStoreStep_address hp ha, runMicro_cons (by exact hr), hread,
    runMicro_cons (by exact hrun), microStep_memStore, memStoreStep_data rfl]
  rfl

/-- R43: the address phase at an invalid address raises, and nothing is left pending. -/
theorem runMicro_memStore_invalid {s : State} (hr : s.run = .running) (hp : s.pend = none)
    (ha : ¬ ValidAddress s.cfg s.ext) (ops : List MicroOp) :
    runMicro (.memStore :: ops) s = s.raise .outOfBoundsAddress s.ext := by
  rw [runMicro_cons hr, microStep_memStore, memStoreStep_invalid hp ha, runMicro_raise]

/-- R109 at a valid `PC`: "Wrap-around ... is unreachable" (R12). -/
theorem runMicro_incPc_valid {s : State} (hc : s.cfg.WF) (hr : s.run = .running) (hp : ValidAddress s.cfg s.pc) :
    runMicro incPc s = { s with pc := s.pc + 1, iba := s.pc, ibb := s.pc + 1, acc1 := s.pc + 1 } := by
  obtain ⟨hlo, hhi⟩ := hp
  rw [runMicro_incPc hr, wrap_address hc (by omega) (by omega)]

/-- The microprogram that the dispatch of R111 issues for a decoded instruction; `exec_eq_issue` ties it to `exec`. -/
def instrProgram : Instr → List MicroOp
  | .add a => addProgram (some a)
  | .sub a => subProgram (some a)
  | .jmp a => jmpProgram (some a)
  | .jz a => jzProgram (some a)
  | .jn a => jnProgram (some a)
  | .read a => readProgram (some a)
  | .store a => storeProgram (some a)
  | .ldi v => ldiProgram (some v)
  | .inc => incProgram
  | .moveregreg a b => moveregregProgram (some a) (some b)
  | .call a => callProgram (some a)
  | .ret => retProgram
  | .addregreg a b => addregregProgram (some a) (some b)
  | .subregreg a b => subregregProgram (some a) (some b)
  | .jnz a => jnzProgram (some a)
  | .incmem a => incmemProgram (some a)
  | .addregmem r a => addregmemProgram (some r) (some a)
  | .subregmem r a => subregmemProgram (some r) (some a)
  | .cmp a b => cmpProgram (some a) (some b)
  | .je a => jeProgram (some a)
  | .jne a => jneProgram (some a)

theorem exec_eq_issue (i : Instr) : exec i s = issue (instrProgram i) s := by
  cases i <;> rfl

variable {s}

theorem exec_of_running (h : s.run = .running) (i : Instr) : exec i s = .next (runMicro (instrProgram i) s) := by
  rw [exec_eq_issue, issue_of_running h]

theorem exec_next {i : Instr} {t : State} (h : exec i s = .next t) : t = runMicro (instrProgram i) s := by
  rw [exec_eq_issue] at h
  exact (issue_next.mp h).2

end Sys2Proof.Machine
end

section
/-! # What decoding answers, read backwards (R70 to R75) -/

namespace Sys2Proof

/-- The instructions a maker makes are those whose words are the opcode `n` and the operands. -/
def Maker.Encodes (n : Nat) : Maker → Prop
  | .bare i => encode i = [(n : Int)]
  | .one mk => ∀ a, encode (mk a) = [(n : Int), a]
  | .two mk => ∀ a b, encode (mk a b) = [(n : Int), a, b]

theorem makerOf_eq_none {n : Nat} : makerOf n = none ↔ 21 ≤ n := by
  constructor
  · intro h
    by_contra hlt
    interval_cases n <;> cases h
  · intro h
    obtain ⟨k, rfl⟩ := Nat.exists_eq_add_of_le' h
    rfl

theorem makerOf_encodes {n : Nat} {m : Maker} (h : makerOf n = some m) : m.Encodes n := by
  have hn : n ≤ 20 := by
    by_contra hgt
    rw [makerOf_eq_none.mpr (by omega)] at h
    cases h
  interval_cases n <;> cases h <;> simp [Maker.Encodes, encode, Instr.opcode, Instr.operands]

/-- The words that decode to an instruction begin with its encoding. -/
theorem encode_append_of_decode {ws rest : List Int} {i : Instr} (h : decode ws = .ok (i, rest)) :
    ws = encode i ++ rest := by
  unfold decode at h
  split at h
  · cases h
  · cases h
  · split at h <;> cases h
    all_goals
      have hwords := makerOf_encodes ‹makerOf _ = _›
      simp only [Maker.Encodes] at hwords
      simp [hwords]

/-- R71, R77: with two words after the opcode, only the opcode can be why they do not decode. -/
theorem not_opcode_of_decode_error {op a b : Int} {e : DecodeReject} (h : decode [op, a, b] = .error e) :
    ¬ (0 ≤ op ∧ op ≤ 20) := by
  rintro ⟨hlo, hhi⟩
  obtain ⟨n, rfl⟩ := Int.eq_ofNat_of_zero_le hlo
  obtain ⟨m, hm⟩ := Option.ne_none_iff_exists'.mp (mt makerOf_eq_none.mp (show ¬ 21 ≤ n by omega))
  cases m <;> simp [decode, hm] at h

end Sys2Proof
end

section
/-! # The invariant: what each update and each micro-operation keeps -/

namespace Sys2Proof.Machine

variable {s : State}

/-! ### Updates of a well-formed state -/

/-- The one-Word elements and `run` may change freely within Words; the rest of the invariant does not name them. -/
theorem State.WF.withCells (h : s.WF) {pc ir ext iba ibb acc0 acc1 sm0 sm1 : Int} {run : RunState}
    (hcells : State.CellsFit { s with pc := pc, ir := ir, ext := ext, iba := iba, ibb := ibb, acc0 := acc0
                                      acc1 := acc1, sm0 := sm0, sm1 := sm1, run := run }) :
    State.WF { s with pc := pc, ir := ir, ext := ext, iba := iba, ibb := ibb, acc0 := acc0
                      acc1 := acc1, sm0 := sm0, sm1 := sm1, run := run } := by
  obtain ⟨hcfg, hregs, -, hrest⟩ := h
  exact ⟨hcfg, hregs, hcells, hrest⟩

theorem State.WF.cells (h : s.WF) : s.CellsFit := h.2.2.1

theorem State.WF.stack (h : s.WF) : s.StackOk := by
  obtain ⟨-, -, -, -, hstack, -⟩ := h
  exact hstack

theorem State.WF.pend (h : s.WF) : s.pend = none := by
  obtain ⟨-, -, -, -, -, -, -, hpend, -⟩ := h
  exact hpend

theorem State.WF.raise (h : s.WF) (k : ErrorKind) (v : Int) : (s.raise k v).WF := h.withCells h.cells

theorem State.WF.halt (h : s.WF) : s.halt.WF := h.withCells h.cells

theorem State.WF.withExt (h : s.WF) {v : Int} (hv : Fits s.cfg.W v) : State.WF { s with ext := v } := by
  obtain ⟨hpc, hir, -, hrest⟩ := h.cells
  exact h.withCells ⟨hpc, hir, hv, hrest⟩

theorem State.WF.withPc (h : s.WF) {v : Int} (hv : Fits s.cfg.W v) : State.WF { s with pc := v } := by
  obtain ⟨-, hrest⟩ := h.cells
  exact h.withCells ⟨hv, hrest⟩

theorem State.WF.withIba (h : s.WF) {v : Int} (hv : Fits s.cfg.W v) : State.WF { s with iba := v } := by
  obtain ⟨hpc, hir, hext, -, hrest⟩ := h.cells
  exact h.withCells ⟨hpc, hir, hext, hv, hrest⟩

theorem State.WF.withIbb (h : s.WF) {v : Int} (hv : Fits s.cfg.W v) : State.WF { s with ibb := v } := by
  obtain ⟨hpc, hir, hext, hiba, -, hrest⟩ := h.cells
  exact h.withCells ⟨hpc, hir, hext, hiba, hv, hrest⟩

theorem State.WF.setAcc (h : s.WF) (k : Slot) {v : Int} (hv : Fits s.cfg.W v) : (s.setAcc k v).WF := by
  obtain ⟨hpc, hir, hext, hiba, hibb, h0, h1, hsm⟩ := h.cells
  cases k with
  | zero => exact h.withCells ⟨hpc, hir, hext, hiba, hibb, hv, h1, hsm⟩
  | one => exact h.withCells ⟨hpc, hir, hext, hiba, hibb, h0, hv, hsm⟩

theorem State.WF.setReg (h : s.WF) (i : Nat) {v : Int} (hv : Fits s.cfg.W v) : (s.setReg i v).WF := by
  obtain ⟨hcfg, ⟨hlen, hregs⟩, hrest⟩ := h
  refine ⟨hcfg, ⟨List.length_set.trans hlen, fun u hu => ?_⟩, hrest⟩
  rcases List.mem_or_eq_of_mem_set hu with hu | rfl
  · exact hregs u hu
  · exact hv

/-- R14: `SetFlags` leaves one of the three flag words. -/
theorem State.WF.setFlags (h : s.WF) (r : Int) : (s.setFlags r).WF := by
  obtain ⟨hcfg, hregs, hcells, hflags, hrest⟩ := h
  refine ⟨hcfg, hregs, hcells, ?_, hrest⟩
  rw [State.FlagsOk, State.setFlags_flags, flagsAfter_eq hflags]
  split_ifs <;> simp

theorem State.WF.withStkTop (h : s.WF) {v : Int} (hlo : s.stkBot ≤ v) (hhi : v ≤ s.cfg.stackTopInit) :
    State.WF { s with stkTop := v } := by
  obtain ⟨hcfg, hregs, hcells, hflags, ⟨hbot, -, -⟩, hrest⟩ := h
  exact ⟨hcfg, hregs, hcells, hflags, ⟨hbot, hlo, hhi⟩, hrest⟩

theorem State.WF.withSel (h : s.WF) {i : Nat} (hi : i < s.cfg.nregs) : State.WF { s with sel := i } := by
  obtain ⟨hcfg, hregs, hcells, hflags, hstk, hcanon, hmem, hpend, -⟩ := h
  exact ⟨hcfg, hregs, hcells, hflags, hstk, hcanon, hmem, hpend, hi⟩

theorem State.WF.writeCell (h : s.WF) {a v : Int} (ha : ValidAddress s.cfg a) (hv : Fits s.cfg.W v) :
    (s.writeCell a v).WF := by
  obtain ⟨hcfg, hregs, hcells, hflags, hstk, hcanon, hmem, hrest⟩ := h
  obtain ⟨hlo, hhi⟩ := ha
  exact ⟨hcfg, hregs, hcells, hflags, hstk, cellWrite_wf hcanon _ _, memoryFits_cellWrite hmem (by omega) hv, hrest⟩

/-- R44: the data phase of a store leaves nothing pending. -/
theorem State.WF.storeData (h : s.WF) {a v : Int} (ha : ValidAddress s.cfg a) (hv : Fits s.cfg.W v) :
    State.WF { s.writeCell a v with pend := none } := by
  obtain ⟨hcfg, hregs, hcells, hflags, hstk, hcanon, hmem, -, hsel⟩ := h.writeCell ha hv
  exact ⟨hcfg, hregs, hcells, hflags, hstk, hcanon, hmem, rfl, hsel⟩

/-! ### Words read from a well-formed state -/

theorem acc_fits (h : s.WF) (k : Slot) : Fits s.cfg.W (s.acc k) := by
  obtain ⟨-, -, -, -, -, h0, h1, -⟩ := h.cells
  cases k with
  | zero => exact h0
  | one => exact h1

/-- R16, R17: `StkTop` lies between the stack bounds, so it is a Word. -/
theorem stkTop_fits (h : s.WF) : Fits s.cfg.W s.stkTop := by
  obtain ⟨hb, hlo, hhi⟩ := h.stack
  obtain ⟨-, -, -, -, -, -, htop, hbot, -⟩ := id h.1
  exact fits_address h.1 (by omega) (by omega)

theorem aluResult_fits (h : s.WF) (op : AluOp) (a b : Int) : Fits s.cfg.W (aluResult s.cfg.W op a b) := by
  cases op <;> exact fits_wrap h.1 _

/-! ### Micro-operations -/

/-- The micro-operations that keep the invariant from every well-formed state. The others need what stands around
them: `MEM.store` its second phase, `STK.incTop` a non-empty stack, `FLAGS.setBit` the other bit clear; and a carried
operand must be a Word. -/
def MicroOp.Plain (W : Nat) : MicroOp → Prop
  | .memStore | .stkIncTop | .flagsSetBit _ _ => False
  | .operandRead w => Fits W w
  | _ => True

theorem readStep_wf (h : s.WF) (r : ReadPort) : (readStep r s).WF := by
  cases r with
  | pc => exact h.withExt h.cells.1
  | reg0 => exact h.withExt (reg_fits h 0)
  | stkTop => exact h.withExt (stkTop_fits h)

theorem storeStep_wf (h : s.WF) (r : StorePort) : (storeStep r s).WF := by
  obtain ⟨hpc, -, hext, hrest⟩ := h.cells
  cases r with
  | pc => exact h.withPc hext
  | ir => exact h.withCells ⟨hpc, hext, hext, hrest⟩
  | reg0 => exact h.setReg 0 hext

theorem internalReadStep_wf (h : s.WF) (r : InternalReadPort) : (internalReadStep r s).WF := by
  obtain ⟨hpc, hir, -⟩ := h.cells
  cases r with
  | pc => exact h.withIba hpc
  | ir => exact h.withIba hir
  | reg0 => exact h.withIba (reg_fits h 0)

theorem internalStoreStep_wf (h : s.WF) (r : InternalStorePort) : (internalStoreStep r s).WF := by
  obtain ⟨-, -, -, -, hibb, -⟩ := h.cells
  cases r with
  | pc => exact h.withPc hibb
  | reg0 => exact h.setReg 0 hibb

theorem smStoreInStep_wf (h : s.WF) (k : Slot) : (smStoreInStep k s).WF := by
  obtain ⟨hpc, hir, hext, hiba, hibb, h0, h1, hsm0, hsm1⟩ := h.cells
  cases k with
  | zero => exact h.withCells ⟨hpc, hir, hext, hiba, hibb, h0, h1, hext, hsm1⟩
  | one => exact h.withCells ⟨hpc, hir, hext, hiba, hibb, h0, h1, hsm0, hext⟩

theorem smSelectStep_wf (h : s.WF) (b : SelectInput) : (smSelectStep b s).WF := by
  obtain ⟨-, -, -, -, -, -, -, hsm0, hsm1⟩ := h.cells
  refine h.withExt ?_
  split
  · exact hsm1
  · exact hsm0

theorem memReadStep_wf (h : s.WF) {w : Int} (hw : Fits s.cfg.W w) : (memReadStep w s).WF := by
  by_cases ha : ValidAddress s.cfg s.ext
  · rw [memReadStep_valid ha]; exact h.withExt hw
  · rw [memReadStep_invalid ha]; exact h.raise _ _

theorem demuxSetValueStep_wf (h : s.WF) : (demuxSetValueStep s).WF := by
  by_cases hid : ValidRegister s.cfg s.ext
  · rw [demuxSetValueStep_valid hid]
    obtain ⟨hlo, hhi⟩ := hid
    exact h.withSel (by omega)
  · rw [demuxSetValueStep_invalid hid]; exact h.raise _ _

theorem stkDecTopStep_wf (h : s.WF) : (stkDecTopStep s).WF := by
  obtain ⟨-, -, hhi⟩ := h.stack
  by_cases hfull : s.stkTop - 1 < s.stkBot
  · rw [stkDecTopStep_full hfull]; exact h.raise _ _
  · rw [stkDecTopStep_room hfull]; exact h.withStkTop (by omega) (by omega)

theorem stkCheckNotEmptyStep_wf (h : s.WF) : (stkCheckNotEmptyStep s).WF := by
  by_cases hempty : s.stkTop = s.cfg.stackTopInit
  · rw [stkCheckNotEmptyStep_empty hempty]; exact h.raise _ _
  · rwa [stkCheckNotEmptyStep_nonempty hempty]

theorem microStep_wf (h : s.WF) {op : MicroOp} (hop : op.Plain s.cfg.W) : (microStep op s).WF := by
  obtain ⟨-, -, hext, hiba, hibb, -⟩ := h.cells
  cases op with
  | read r => exact readStep_wf h r
  | store r => exact storeStep_wf h r
  | internalRead r => exact internalReadStep_wf h r
  | internalStore r => exact internalStoreStep_wf h r
  | flagsGetBit i => exact h
  | aluStoreOperand k => exact h.setAcc k hiba
  | aluInternalStoreOperand k => exact h.setAcc k hibb
  | aluReadOperand k => exact h.withIba (acc_fits h k)
  | aluInternalReadOperand k => exact h.withIbb (acc_fits h k)
  | alu op => exact h.setAcc .one (aluResult_fits h op _ _)
  | demuxSetValue => exact demuxSetValueStep_wf h
  | demuxInternalRead => exact h.withIba (reg_fits h _)
  | demuxInternalStore => exact h.setReg _ hibb
  | smStoreIn k => exact smStoreInStep_wf h k
  | smSelect b => exact smSelectStep_wf h b
  | flagsUpdate => exact h.setFlags _
  | memRead => exact memReadStep_wf h (cell_fits h _)
  | operandRead w => exact memReadStep_wf h hop
  | stkDecTop => exact stkDecTopStep_wf h
  | stkCheckNotEmpty => exact stkCheckNotEmptyStep_wf h
  | flagsSetBit | memStore | stkIncTop => exact hop.elim

/-! ### Sequences of micro-operations -/

/-- A program that leaves every well-formed state of a `W`-bit machine well-formed, completed or faulted. -/
def KeepsWF (W : Nat) (program : List MicroOp) : Prop :=
  ∀ s : State, s.cfg.W = W → s.WF → (runMicro program s).WF

variable {W : Nat}

theorem KeepsWF.append {p q : List MicroOp} (hp : KeepsWF W p) (hq : KeepsWF W q) : KeepsWF W (p ++ q) := by
  intro s hW h
  rw [runMicro_append]
  exact hq _ (by rw [runMicro_cfg, hW]) (hp s hW h)

theorem keepsWF_of_plain {p : List MicroOp} (hp : ∀ op ∈ p, op.Plain W) : KeepsWF W p := by
  intro s hW h
  refine (runMicro_induction (P := fun t => t.cfg.W = W ∧ t.WF) (fun op hop t ⟨hW, ht⟩ => ?_) ⟨hW, h⟩).2
  exact ⟨by rw [microStep_cfg, hW], microStep_wf ht (hW ▸ hp op hop)⟩

/-- R43 to R46: both phases of a store with the data read onto the bus between them. The first phase raises with
nothing pending, or the second completes the store at the address that the first checked. -/
theorem keepsWF_store (r : ReadPort) : KeepsWF W [.memStore, .read r, .memStore] := by
  intro s _ h
  by_cases hr : s.run = .running
  · by_cases ha : ValidAddress s.cfg s.ext
    · have hread : (readStep r s).WF := readStep_wf h r
      have hcfg : (readStep r s).cfg = s.cfg := microStep_cfg (.read r) s
      obtain ⟨-, -, hext, -⟩ := hread.cells
      rw [runMicro_store_valid hr h.pend ha, runMicro_nil]
      exact hread.storeData (hcfg ▸ ha) hext
    · rw [runMicro_memStore_invalid hr h.pend ha]
      exact h.raise _ _
  · rwa [runMicro_of_ended hr]

/-- R52: the whole of a pop's micro-operations, from a well-formed running state. -/
theorem pop_eq (h : s.WF) (hr : s.run = .running) :
    pop s =
      if s.stkTop = s.cfg.stackTopInit then s.raise .stackUnderflow s.stkTop
      else { s with ext := s.cell s.stkTop, stkTop := s.stkTop + 1 } := by
  rw [pop, runMicro_cons hr, microStep_stkCheckNotEmpty]
  by_cases hempty : s.stkTop = s.cfg.stackTopInit
  · rw [stkCheckNotEmptyStep_empty hempty, runMicro_raise, if_pos hempty]
  · rw [stkCheckNotEmptyStep_nonempty hempty, if_neg hempty]
    rw [runMicro_cons hr, microStep_read_stkTop, runMicro_memRead_valid (by exact hr) (pop_address h hempty),
      runMicro_cons (by exact hr)]
    rfl

theorem pop_wf (h : s.WF) : (pop s).WF := by
  by_cases hr : s.run = .running
  · rw [pop_eq h hr]
    obtain ⟨-, hlo, hhi⟩ := h.stack
    split
    · exact h.raise _ _
    · exact (h.withExt (cell_fits h _)).withStkTop (by simp only; omega) (by simp only; omega)
  · rwa [pop, runMicro_of_ended hr]

/-! ### The microprograms of the 21 instructions -/

theorem keepsWF_incPc : KeepsWF W incPc := keepsWF_of_plain (by simp [incPc, MicroOp.Plain])

theorem keepsWF_operand {w : Int} (hw : Fits W w) : KeepsWF W (operand (some w)) :=
  keepsWF_of_plain (by simpa [operand, MicroOp.Plain] using hw)

theorem keepsWF_registerOperand {id : Int} (hid : Fits W id) : KeepsWF W (registerOperand (some id)) :=
  (keepsWF_operand hid).append (keepsWF_of_plain (by simp [MicroOp.Plain]))

theorem keepsWF_memoryOperand {a : Int} (ha : Fits W a) : KeepsWF W (memoryOperand (some a)) :=
  keepsWF_of_plain (by simpa [memoryOperand, operand, MicroOp.Plain] using ha)

theorem keepsWF_registerPair {a b : Int} (ha : Fits W a) (hb : Fits W b) :
    KeepsWF W (registerPair (some a) (some b)) :=
  keepsWF_of_plain (by simpa [registerPair, incPc, registerOperand, operand, MicroOp.Plain] using ⟨ha, hb⟩)

theorem keepsWF_accMemProgram (op : AluOp) {a : Int} (ha : Fits W a) : KeepsWF W (accMemProgram op (some a)) :=
  ((keepsWF_incPc.append (keepsWF_memoryOperand ha)).append (keepsWF_of_plain (by simp [MicroOp.Plain]))).append
    keepsWF_incPc

theorem keepsWF_condJumpProgram (i : FlagBit) (p : Polarity) {a : Int} (ha : Fits W a) :
    KeepsWF W (condJumpProgram i p (some a)) :=
  (((keepsWF_incPc.append (keepsWF_operand ha)).append (keepsWF_of_plain (by simp [MicroOp.Plain]))).append
    keepsWF_incPc).append (keepsWF_of_plain (by simp [MicroOp.Plain]))

theorem keepsWF_regRegProgram (op : AluOp) {a b : Int} (ha : Fits W a) (hb : Fits W b) :
    KeepsWF W (regRegProgram op (some a) (some b)) :=
  ((keepsWF_registerPair ha hb).append (keepsWF_of_plain (by simp [MicroOp.Plain]))).append keepsWF_incPc

theorem keepsWF_regMemProgram (op : AluOp) {r a : Int} (hr : Fits W r) (ha : Fits W a) :
    KeepsWF W (regMemProgram op (some r) (some a)) :=
  ((((keepsWF_incPc.append (keepsWF_registerOperand hr)).append keepsWF_incPc).append
    (keepsWF_memoryOperand ha)).append (keepsWF_of_plain (by simp [MicroOp.Plain]))).append keepsWF_incPc

theorem keepsWF_storeProgram {a : Int} (ha : Fits W a) : KeepsWF W (storeProgram (some a)) :=
  ((keepsWF_incPc.append (keepsWF_operand ha)).append (keepsWF_store .reg0)).append keepsWF_incPc

theorem keepsWF_incmemProgram {a : Int} (ha : Fits W a) : KeepsWF W (incmemProgram (some a)) :=
  ((((keepsWF_incPc.append (keepsWF_memoryOperand ha)).append (keepsWF_of_plain (by simp [MicroOp.Plain]))).append
    (keepsWF_operand ha)).append ((keepsWF_store .reg0).append (keepsWF_of_plain (by simp [MicroOp.Plain])))).append
    keepsWF_incPc

theorem keepsWF_callProgram {a : Int} (ha : Fits W a) : KeepsWF W (callProgram (some a)) :=
  (((keepsWF_incPc.append (keepsWF_operand ha)).append (keepsWF_of_plain (by simp [MicroOp.Plain]))).append
    keepsWF_incPc).append
    ((keepsWF_of_plain (p := [.stkDecTop, .read .stkTop]) (by simp [MicroOp.Plain])).append
      ((keepsWF_store .pc).append (keepsWF_of_plain (by simp [MicroOp.Plain]))))

/-- RET is a pop followed by the jump (R171). -/
theorem keepsWF_retProgram : KeepsWF W retProgram :=
  KeepsWF.append (fun _ _ h => pop_wf h) (keepsWF_of_plain (p := [.store .pc]) (by simp [MicroOp.Plain]))

/-- Every instruction whose operands are Words keeps the invariant. -/
theorem keepsWF_instrProgram {i : Instr} (hi : i.WF W) : KeepsWF W (instrProgram i) := by
  cases i <;> simp only [Instr.WF, Instr.operands, List.forall_mem_cons, List.not_mem_nil, false_implies,
    implies_true, and_true] at hi
  case add a => exact keepsWF_accMemProgram .add hi
  case sub a => exact keepsWF_accMemProgram .sub hi
  case inc =>
    exact KeepsWF.append (keepsWF_of_plain (by simp [MicroOp.Plain])) keepsWF_incPc
  case jmp a =>
    exact (keepsWF_incPc.append (keepsWF_operand hi)).append (keepsWF_of_plain (by simp [MicroOp.Plain]))
  case jz a | je a => exact keepsWF_condJumpProgram .zero .ifSet hi
  case jnz a | jne a => exact keepsWF_condJumpProgram .zero .ifClear hi
  case jn a => exact keepsWF_condJumpProgram .negative .ifSet hi
  case read a | ldi a =>
    exact ((keepsWF_incPc.append (keepsWF_operand hi)).append (keepsWF_of_plain (by simp [MicroOp.Plain]))).append
      keepsWF_incPc
  case store a => exact keepsWF_storeProgram hi
  case incmem a => exact keepsWF_incmemProgram hi
  case moveregreg a b | cmp a b =>
    exact ((keepsWF_registerPair hi.1 hi.2).append (keepsWF_of_plain (by simp [MicroOp.Plain]))).append keepsWF_incPc
  case addregreg a b => exact keepsWF_regRegProgram .add hi.1 hi.2
  case subregreg a b => exact keepsWF_regRegProgram .sub hi.1 hi.2
  case addregmem r a => exact keepsWF_regMemProgram .add hi.1 hi.2
  case subregmem r a => exact keepsWF_regMemProgram .sub hi.1 hi.2
  case call a => exact keepsWF_callProgram hi
  case ret => exact keepsWF_retProgram

/-! ### The whole step -/

theorem fetchDecode_wf (h : s.WF) : (fetchDecode s).WF :=
  keepsWF_of_plain (p := fetchSequence ++ decodeSequence) (W := s.cfg.W)
    (by simp [fetchSequence, decodeSequence, MicroOp.Plain]) s rfl h

/-- Decoding reads Words, so what it answers is well-formed (R74). -/
theorem instr_wf_of_decode (h : s.WF) {i : Instr} {rest : List Int}
    (hd : decode (fetchedWords s) = .ok (i, rest)) : i.WF s.cfg.W := by
  have hwords : ∀ v ∈ fetchedWords s, Fits s.cfg.W v := by
    obtain ⟨-, -, -, hiba, -⟩ := h.cells
    simp only [fetchedWords, List.forall_mem_cons, List.not_mem_nil, false_implies,
    implies_true, and_true]
    exact ⟨hiba, cell_fits h _, cell_fits h _⟩
  intro v hv
  refine hwords v ?_
  rw [encode_append_of_decode hd]
  simp [encode, hv]

/-- The second half of a step: the decoded instruction, or the clean halt. -/
theorem dispatch_wf {t : State} (h : s.WF) (ht : dispatch s = .next t) : t.WF := by
  unfold dispatch at ht
  split at ht
  · rw [exec_next ht]
    exact keepsWF_instrProgram (instr_wf_of_decode h ‹_›) s rfl h
  · cases ht
    exact h.halt

/-- Settles O22: FETCH and decode keep the invariant, and so does what they dispatch. -/
theorem stepKeepsWellFormed : Obligations.StepKeepsWellFormed := by
  intro s t h ht
  obtain ⟨-, -, -, hi⟩ := hostStep_next ht
  have hf := fetchDecode_wf h
  simp only [instructionStep] at hi
  split at hi
  · exact dispatch_wf hf hi
  · cases hi
    exact hf

end Sys2Proof.Machine
end

section
/-! # Launch: what it answers, and that what it answers is well-formed (R5, R27, R200, R201) -/

namespace Sys2Proof.Machine

/-- Everything `launch` can answer with a machine. -/
theorem launch_next {c : Config} {image : Image} {s : State} :
    launch c image = .next s ↔ c.WF ∧ ImageFits c image ∧ s = State.resetWith c (loadImage image) := by
  unfold launch
  by_cases hc : c.WF
  · by_cases hi : ImageFits c image
    · rw [if_pos hc, if_pos hi]
      exact ⟨fun h => ⟨hc, hi, (Host.Outcome.next.inj h).symm⟩, fun ⟨_, _, hs⟩ => hs ▸ rfl⟩
    · rw [if_pos hc, if_neg hi]
      exact ⟨nofun, fun ⟨_, hi', _⟩ => absurd hi' hi⟩
  · rw [if_neg hc]
    exact ⟨nofun, fun ⟨hc', _⟩ => absurd hc' hc⟩

/-- R201: a loader that is given existing cells and Words leaves only such. -/
theorem loadImage_fits {c : Config} {image : Image}
    (h : ∀ p ∈ image, ValidAddress c p.1 ∧ Fits c.W p.2) : MemoryFits c (loadImage image) := by
  induction image with
  | nil => simp [loadImage, MemoryFits]
  | cons p rest ih =>
    obtain ⟨⟨hlo, hhi⟩, hv⟩ := h p (by simp)
    exact memoryFits_cellWrite (ih fun q hq => h q (by simp [hq])) (by omega) hv

/-- R27: reset establishes the invariant, whatever canonical memory the loader supplies. -/
theorem resetWith_wf {c : Config} (hc : c.WF) {m : Memory} (hm : Memory.wf m) (hf : MemoryFits c m) :
    (State.resetWith c m).WF := by
  have hzero : Fits c.W 0 := fits_address hc le_rfl (by omega)
  have hregs : (State.resetWith c m).RegistersOk :=
    ⟨List.length_replicate, fun v hv => List.eq_of_mem_replicate hv ▸ hzero⟩
  obtain ⟨-, -, -, hnregs, -, hstack, -, -, hentry⟩ := id hc
  exact ⟨hc, hregs, ⟨hentry, hzero, hzero, hzero, hzero, hzero, hzero, hzero, hzero⟩, .inl rfl,
    ⟨rfl, hstack, le_rfl⟩, hm, hf, rfl, hnregs⟩

/-- Settles O19. -/
theorem launchRefusals : Obligations.LaunchRefusals := fun _ _ =>
  ⟨fun hc => if_neg hc, fun hc hi => (if_pos hc).trans (if_neg hi),
    fun hc hi => ⟨_, launch_next.mpr ⟨hc, hi, rfl⟩⟩⟩

/-- Settles O21: reset from the loaded image establishes every part of the invariant. -/
theorem launchIsWellFormed : Obligations.LaunchIsWellFormed := by
  intro c image s h
  obtain ⟨hc, ⟨hvalues, -⟩, rfl⟩ := launch_next.mp h
  exact resetWith_wf hc (loadImage_wf image) (loadImage_fits hvalues)

/-- Settles O20: configuration `T` meets R5 and the empty image fits, so O21 covers this launch. -/
theorem resetIsWellFormed : Obligations.ResetIsWellFormed := by
  have hlaunch : launch Config.test [] = .next State.reset :=
    launch_next.mpr ⟨by decide, ⟨nofun, List.nodup_nil⟩, rfl⟩
  exact ⟨launchIsWellFormed _ _ _ hlaunch, _, hlaunch, rfl⟩

end Sys2Proof.Machine
end

section
/-! # The microprograms refine the architectural pseudocode (R9, R117, R188)

The pseudocode is written with continuations, the microprograms as lists. One rule per operation that both levels name
(the operand word, the data word, the register id, the store) takes a program that begins with that operation to the
rest of the program, and the pseudocode to its continuation. -/

namespace Sys2Proof.Machine

/-- The state `t` that a step from `s` ends in is what the pseudocode says: R9 on completion; where it raises, FAULTED
with nothing but `PC` different (R188). -/
def Agrees (s t : State) : ArchResult → Prop
  | .done u => t.arch = u
  | .raised k v => t.arch = { s.arch with pc := t.pc, run := .faulted k v }

/-- `u` is inside an instruction begun at `s`, still running, and no architectural element but `PC` has moved. -/
def OnlyPcMoved (s u : State) : Prop := u.run = .running ∧ u.arch = { s.arch with pc := u.pc }

/-- The micro-operations that cannot raise (R119). -/
def MicroOp.unraising : MicroOp → Bool
  | .demuxSetValue | .memRead | .memStore | .operandRead _ | .stkDecTop | .stkCheckNotEmpty => false
  | _ => true

/-! ### What the shared sequences leave when nothing raises -/

/-- Micro-operations one after another with no look at `run`; `runMicro_of_unraising` says when that is `runMicro`. -/
def issueAll (ops : List MicroOp) (s : State) : State := ops.foldl (fun t op => microStep op t) s

/-- What INCPC leaves at a valid `PC` (R109). -/
def afterIncPc (u : State) : State :=
  { u with pc := u.pc + 1, iba := u.pc, ibb := u.pc + 1, acc1 := u.pc + 1 }

/-- What a register operand with a valid id leaves (R166). -/
def afterRegisterOperand (id : Int) (u : State) : State := { u with ext := id, sel := id.toNat }

/-- What two valid register operands leave: `x[a]` in `acc0`, `b` selected (R160). -/
def afterRegisterPair (a b : Int) (u : State) : State :=
  { u with pc := u.pc + 2, ext := b, sel := b.toNat, iba := u.pc + 1, ibb := u.pc + 2, acc0 := u.reg a.toNat
           acc1 := u.pc + 2 }

/-- What a memory operand leaves when its Word is `w`: Reg0 carries it, `acc0` keeps what Reg0 held (R130). -/
def afterMemoryOperand (w : Int) (u : State) : State :=
  { u with x := u.x.set 0 w, ext := w, iba := w, acc0 := u.reg 0, acc1 := w }

theorem microStep_run_of_unraising {op : MicroOp} (hop : op.unraising = true) (s : State) :
    (microStep op s).run = s.run := by
  cases op with
  | read r | store r | internalRead r | internalStore r => cases r <;> rfl
  | aluStoreOperand k | aluInternalStoreOperand k | smStoreIn k => cases k <;> rfl
  | demuxSetValue | memRead | memStore | operandRead | stkDecTop | stkCheckNotEmpty => cases hop
  | _ => rfl

theorem runMicro_of_unraising {ops : List MicroOp} {s : State} (hr : s.run = .running)
    (hops : ops.all MicroOp.unraising = true) :
    runMicro ops s = issueAll ops s ∧ (issueAll ops s).run = .running := by
  induction ops generalizing s with
  | nil => exact ⟨rfl, hr⟩
  | cons op ops ih =>
    obtain ⟨hop, hops⟩ := Bool.and_eq_true_iff.mp hops
    rw [runMicro_cons hr]
    exact ih ((microStep_run_of_unraising hop s).trans hr) hops

theorem cell_of_valid {s : State} {a : Int} (ha : ValidAddress s.cfg a) : s.cell a = cellRead s.mem a.toNat :=
  if_pos ha

theorem OnlyPcMoved.cfg {s u : State} (hu : OnlyPcMoved s u) : u.cfg = s.cfg := congrArg ArchState.cfg hu.2

theorem OnlyPcMoved.x {s u : State} (hu : OnlyPcMoved s u) : u.x = s.x := congrArg ArchState.x hu.2

theorem OnlyPcMoved.cell {s u : State} (hu : OnlyPcMoved s u) (a : Int) : u.cell a = s.cell a := by
  rw [State.cell, State.cell, hu.cfg, show u.mem = s.mem from congrArg ArchState.mem hu.2]

section Rules

variable {s u : State} {ops : List MicroOp}

theorem agrees_raise (hu : OnlyPcMoved s u) (k : ErrorKind) (v : Int) :
    Agrees s (runMicro ops (u.raise k v)) (.raised k v) := by
  obtain ⟨-, harch⟩ := hu
  rw [runMicro_raise]
  show ({ u.arch with run := _ } : ArchState) = _
  rw [harch]
  rfl

/-! ### One rule per operation of the pseudocode -/

/-- R42, at both levels. -/
theorem agrees_memRead {a : Int} {k : Int → ArchResult} (hu : OnlyPcMoved s u) (hext : u.ext = a)
    (h : ValidAddress s.cfg a → Agrees s (runMicro ops (putExt (s.cell a) u)) (k (s.cell a))) :
    Agrees s (runMicro (.memRead :: ops) u) (archMemRead s.arch a k) := by
  subst hext
  by_cases ha : ValidAddress s.cfg u.ext
  · rw [runMicro_memRead_valid hu.1 (hu.cfg ▸ ha), hu.cell, archMemRead, if_pos (by exact ha)]
    rw [cell_of_valid ha] at h ⊢
    exact h ha
  · rw [runMicro_memRead_invalid hu.1 (hu.cfg ▸ ha), archMemRead, if_neg (by exact ha), ← runMicro_raise ops]
    exact agrees_raise hu _ _

/-- R116, at both levels: the carried word `w` is the one that stands at `PC`. -/
theorem agrees_operand {a w : Int} {k : Int → ArchResult} (hu : OnlyPcMoved s u) (hpc : u.pc = a) (hw : s.cell a = w)
    (h : ValidAddress s.cfg a → Agrees s (runMicro ops (putExt w u)) (k w)) :
    Agrees s (runMicro (operand (some w) ++ ops) u) (archMemRead s.arch a k) := by
  subst hpc hw
  have hagree : runMicro (operand (some (s.cell u.pc))) u = runMicro (operand none) u :=
    runMicro_operand_agree hu.1 fun _ => hu.cell _
  rw [runMicro_append, hagree, ← runMicro_append]
  show Agrees s (runMicro (.read .pc :: .memRead :: ops) u) _
  rw [runMicro_cons hu.1, microStep_read_pc]
  exact agrees_memRead (u := { u with ext := u.pc }) hu rfl h

/-- R166, at both levels. -/
theorem agrees_registerOperand {a w : Int} {k : Nat → ArchResult} (hu : OnlyPcMoved s u) (hpc : u.pc = a)
    (hw : s.cell a = w)
    (h : ValidAddress s.cfg a → Agrees s (runMicro ops (afterRegisterOperand w u)) (k w.toNat)) :
    Agrees s (runMicro (registerOperand (some w) ++ ops) u)
      (archMemRead s.arch a fun id => archRegister s.arch id k) := by
  rw [registerOperand, List.append_assoc]
  refine agrees_operand hu hpc hw fun ha => ?_
  rw [List.singleton_append, runMicro_cons (by exact hu.1), microStep_demuxSetValue]
  by_cases hid : ValidRegister s.cfg w
  · rw [demuxSetValueStep_valid (by exact hu.cfg ▸ hid), archRegister, if_pos (by exact hid)]
    exact h ha
  · rw [demuxSetValueStep_invalid (by exact hu.cfg ▸ hid), archRegister, if_neg (by exact hid)]
    exact agrees_raise (u := putExt w u) hu _ _

/-- The memory operand of R130, R153 and R163, at both levels. -/
theorem agrees_memoryOperand {a w : Int} {k : Int → Int → ArchResult} (hu : OnlyPcMoved s u) (hx : 0 < s.x.length)
    (hpc : u.pc = a) (hw : s.cell a = w)
    (h : ValidAddress s.cfg a → ValidAddress s.cfg w →
      Agrees s (runMicro ops (afterMemoryOperand (s.cell w) u)) (k w (s.cell w))) :
    Agrees s (runMicro (memoryOperand (some w) ++ ops) u)
      (archMemRead s.arch a fun addr => archMemRead s.arch addr (k addr)) := by
  have hr : u.run = .running := hu.1
  rw [← hu.x] at hx
  rw [memoryOperand, List.append_assoc, List.append_assoc, runMicro_append, runMicro_cons hr,
    runMicro_cons (by exact hr), runMicro_nil]
  refine agrees_operand hu hpc hw fun ha => ?_
  refine agrees_memRead hu rfl fun hdata => ?_
  simpa [runMicro_cons, hr, hx, State.setReg, State.reg, putExt, afterMemoryOperand] using h ha hdata

/-- R43 to R45, at both levels. -/
theorem agrees_memStore {a v : Int} {r : ReadPort} {k : ArchState → ArchResult} (hu : OnlyPcMoved s u)
    (hp : u.pend = none) (hext : u.ext = a) (hv : (readStep r u).ext = v)
    (h : ValidAddress s.cfg a →
      Agrees s (runMicro ops (afterStore r u)) (k { s.arch with mem := cellWrite s.mem a.toNat v })) :
    Agrees s (runMicro (.memStore :: .read r :: .memStore :: ops) u) (archMemWrite s.arch a v k) := by
  subst hext hv
  by_cases ha : ValidAddress s.cfg u.ext
  · rw [runMicro_store_valid hu.1 hp (hu.cfg ▸ ha), archMemWrite, if_pos (by exact ha)]
    exact h ha
  · rw [runMicro_memStore_invalid hu.1 hp (hu.cfg ▸ ha), archMemWrite, if_neg (by exact ha), ← runMicro_raise ops]
    exact agrees_raise hu _ _

/-! ### Rules for what the pseudocode does not name, and for its last line -/

theorem agrees_unraising {rest : List MicroOp} {r : ArchResult} (hr : u.run = .running)
    (hops : ops.all MicroOp.unraising = true) (h : Agrees s (runMicro rest (issueAll ops u)) r) :
    Agrees s (runMicro (ops ++ rest) u) r := by
  rwa [runMicro_append, (runMicro_of_unraising hr hops).1]

theorem agrees_incPc {r : ArchResult} (hc : u.cfg.WF) (hr : u.run = .running) (hp : ValidAddress u.cfg u.pc)
    (h : Agrees s (runMicro ops (afterIncPc u)) r) : Agrees s (runMicro (incPc ++ ops) u) r := by
  rwa [runMicro_append, runMicro_incPc_valid hc hr hp]

/-- The last line `pc <- target`, done by unraising micro-operations. -/
theorem agrees_goto {t : ArchState} {target : Int} (hr : u.run = .running) (hops : ops.all MicroOp.unraising = true)
    (ht : (issueAll ops u).arch = { t with pc := target }) : Agrees s (runMicro ops u) (t.goto target) := by
  rw [(runMicro_of_unraising hr hops).1]
  exact ht

/-- The last line `pc <- target`, done by INCPC after unraising micro-operations. -/
theorem agrees_incPc_goto {t : ArchState} {target : Int} (hc : u.cfg.WF) (hr : u.run = .running)
    (hops : ops.all MicroOp.unraising = true) (hp : ValidAddress u.cfg (issueAll ops u).pc)
    (htarget : (issueAll ops u).pc + 1 = target)
    (ht : { (issueAll ops u).arch with pc := target } = { t with pc := target }) :
    Agrees s (runMicro (ops ++ incPc) u) (t.goto target) := by
  obtain ⟨hissue, hrun⟩ := runMicro_of_unraising hr hops
  have hcfg : (issueAll ops u).cfg = u.cfg := by rw [← hissue, runMicro_cfg]
  rw [runMicro_append, hissue, runMicro_incPc_valid (hcfg ▸ hc) hrun (hcfg ▸ hp), htarget]
  exact ht

end Rules

/-! ### The microprograms -/

section Programs

variable {s : State}

theorem pc_add_two (s : State) : s.pc + 1 + 1 = s.pc + 2 := by omega

theorem pc_add_three (s : State) : s.pc + 2 + 1 = s.pc + 3 := by omega

variable (h : s.WF) (hr : s.run = .running) (hp : ValidAddress s.cfg s.pc)
include h hr hp

/-- R130, R131. -/
theorem accMemProgram_agrees {op : AluOp} {f : Int → Int → Int}
    (hop : ∀ a b, aluResult s.cfg.W op a b = wrap s.cfg.W (f a b)) :
    Agrees s (runMicro (accMemProgram op (some (s.cell (s.pc + 1)))) s) (archAccMem f s.arch) := by
  simp only [accMemProgram, List.append_assoc]
  refine agrees_incPc h.1 hr hp ?_
  refine agrees_memoryOperand ⟨hr, rfl⟩ (reg0_exists h) rfl rfl fun hp1 _ => ?_
  refine agrees_incPc_goto h.1 hr rfl hp1 (pc_add_two s) ?_
  simp [issueAll, afterIncPc, afterMemoryOperand, State.arch, ArchState.setReg, ArchState.setFlags, ArchState.reg,
    State.reg, hop]

/-- R132. -/
theorem incProgram_agrees : Agrees s (runMicro incProgram s) (archInc s.arch) := by
  unfold incProgram archInc
  refine agrees_incPc_goto h.1 hr rfl (by simpa [issueAll] using hp) (by simp [issueAll, State.arch]) ?_
  simp [issueAll, State.arch, ArchState.setReg, ArchState.setFlags, ArchState.reg, State.reg, aluResult]

/-- R140. -/
theorem jmpProgram_agrees : Agrees s (runMicro (jmpProgram (some (s.cell (s.pc + 1)))) s) (archJmp s.arch) := by
  simp only [jmpProgram, List.append_assoc]
  refine agrees_incPc h.1 hr hp ?_
  refine agrees_operand ⟨hr, rfl⟩ rfl rfl fun _ => ?_
  exact agrees_goto hr rfl rfl

/-- R141. -/
theorem condJumpProgram_agrees (i : FlagBit) (p : Polarity) :
    Agrees s (runMicro (condJumpProgram i p (some (s.cell (s.pc + 1)))) s)
      (archCondJump i (decide (p = .ifSet)) s.arch) := by
  simp only [condJumpProgram, List.append_assoc]
  refine agrees_incPc h.1 hr hp ?_
  refine agrees_operand ⟨hr, rfl⟩ rfl rfl fun hp1 => ?_
  cases p
  all_goals
    refine agrees_unraising hr rfl (agrees_incPc h.1 hr hp1 (agrees_goto hr rfl ?_))
    cases hb : flagGet s.flags i <;>
      simp [issueAll, afterIncPc, State.arch, selectBit, targetSlot, fallThroughSlot, hb, pc_add_two]

/-- R150. -/
theorem readProgram_agrees :
    Agrees s (runMicro (readProgram (some (s.cell (s.pc + 1)))) s) (archReadInstr s.arch) := by
  simp only [readProgram, List.append_assoc]
  refine agrees_incPc h.1 hr hp ?_
  refine agrees_operand ⟨hr, rfl⟩ rfl rfl fun hp1 => ?_
  refine agrees_memRead ⟨hr, rfl⟩ rfl fun _ => ?_
  exact agrees_incPc_goto (ops := [.store .reg0]) h.1 hr rfl hp1 (pc_add_two s) rfl

/-- R151. -/
theorem storeProgram_agrees :
    Agrees s (runMicro (storeProgram (some (s.cell (s.pc + 1)))) s) (archStore s.arch) := by
  simp only [storeProgram, List.append_assoc]
  refine agrees_incPc h.1 hr hp ?_
  refine agrees_operand ⟨hr, rfl⟩ rfl rfl fun hp1 => ?_
  refine agrees_memStore ⟨hr, rfl⟩ h.pend rfl rfl fun _ => ?_
  exact agrees_incPc_goto (ops := []) h.1 hr rfl hp1 (pc_add_two s) rfl

/-- R152. -/
theorem ldiProgram_agrees : Agrees s (runMicro (ldiProgram (some (s.cell (s.pc + 1)))) s) (archLdi s.arch) := by
  simp only [ldiProgram, List.append_assoc]
  refine agrees_incPc h.1 hr hp ?_
  refine agrees_operand ⟨hr, rfl⟩ rfl rfl fun hp1 => ?_
  exact agrees_incPc_goto h.1 hr rfl hp1 (pc_add_two s) rfl

/-- R153: the second read of the operand and the store cannot raise, the first reads having checked both addresses. -/
theorem incmemProgram_agrees :
    Agrees s (runMicro (incmemProgram (some (s.cell (s.pc + 1)))) s) (archIncmem s.arch) := by
  simp only [incmemProgram, List.append_assoc]
  refine agrees_incPc h.1 hr hp ?_
  refine agrees_memoryOperand ⟨hr, rfl⟩ (reg0_exists h) rfl rfl fun hp1 ha => ?_
  refine agrees_unraising hr rfl ?_
  rw [runMicro_append, runMicro_operand_some (by exact hr) (by exact hp1), archMemWrite, if_pos (by exact ha)]
  rw [List.cons_append, List.cons_append, List.cons_append,
    runMicro_store_valid (by exact hr) (by exact h.pend) (by exact ha)]
  refine agrees_incPc_goto h.1 hr rfl hp1 (pc_add_two s) ?_
  simp [issueAll, afterIncPc, afterMemoryOperand, afterStore, readStep, State.arch, State.reg, aluResult,
    reg0_exists h]

/-- The two register operands of R160, R161 and R165, at both levels. -/
theorem agrees_registerPair {ops : List MicroOp} {k : Nat → Nat → ArchResult}
    (hk : ValidAddress s.cfg (s.pc + 2) →
      Agrees s (runMicro ops (afterRegisterPair (s.cell (s.pc + 1)) (s.cell (s.pc + 2)) s))
        (k (s.cell (s.pc + 1)).toNat (s.cell (s.pc + 2)).toNat)) :
    Agrees s (runMicro (registerPair (some (s.cell (s.pc + 1))) (some (s.cell (s.pc + 2))) ++ ops) s)
      (archRegPair s.arch k) := by
  simp only [registerPair, List.append_assoc]
  refine agrees_incPc h.1 hr hp ?_
  refine agrees_registerOperand ⟨hr, rfl⟩ rfl rfl fun hp1 => ?_
  refine agrees_unraising hr rfl (agrees_incPc h.1 hr hp1 ?_)
  refine agrees_registerOperand ⟨hr, rfl⟩ (pc_add_two s) rfl fun hp2 => ?_
  convert hk hp2 using 2
  simp [issueAll, afterIncPc, afterRegisterOperand, afterRegisterPair, State.reg, pc_add_two]

/-- R160. -/
theorem moveregregProgram_agrees :
    Agrees s (runMicro (moveregregProgram (some (s.cell (s.pc + 1))) (some (s.cell (s.pc + 2)))) s)
      (archMoveregreg s.arch) := by
  simp only [moveregregProgram, List.append_assoc]
  refine agrees_registerPair h hr hp fun hp2 => ?_
  exact agrees_incPc_goto h.1 hr rfl hp2 (pc_add_three s) rfl

/-- R161, R162. -/
theorem regRegProgram_agrees {op : AluOp} {f : Int → Int → Int}
    (hop : ∀ a b, aluResult s.cfg.W op a b = wrap s.cfg.W (f a b)) :
    Agrees s (runMicro (regRegProgram op (some (s.cell (s.pc + 1))) (some (s.cell (s.pc + 2)))) s)
      (archRegReg f s.arch) := by
  simp only [regRegProgram, List.append_assoc]
  refine agrees_registerPair h hr hp fun hp2 => ?_
  refine agrees_incPc_goto h.1 hr rfl hp2 (pc_add_three s) ?_
  simp [issueAll, afterRegisterPair, State.arch, ArchState.setReg, ArchState.setFlags, ArchState.reg, State.reg, hop]

/-- R165. -/
theorem cmpProgram_agrees :
    Agrees s (runMicro (cmpProgram (some (s.cell (s.pc + 1))) (some (s.cell (s.pc + 2)))) s) (archCmp s.arch) := by
  simp only [cmpProgram, List.append_assoc]
  refine agrees_registerPair h hr hp fun hp2 => ?_
  exact agrees_incPc_goto h.1 hr rfl hp2 (pc_add_three s) rfl

/-- R163, R164. -/
theorem regMemProgram_agrees {op : AluOp} {f : Int → Int → Int}
    (hop : ∀ a b, aluResult s.cfg.W op a b = wrap s.cfg.W (f a b)) :
    Agrees s (runMicro (regMemProgram op (some (s.cell (s.pc + 1))) (some (s.cell (s.pc + 2)))) s)
      (archRegMem f s.arch) := by
  simp only [regMemProgram, List.append_assoc]
  refine agrees_incPc h.1 hr hp ?_
  refine agrees_registerOperand ⟨hr, rfl⟩ rfl rfl fun hp1 => ?_
  refine agrees_incPc h.1 hr hp1 ?_
  refine agrees_memoryOperand ⟨hr, rfl⟩ (reg0_exists h) (pc_add_two s) rfl fun hp2 _ => ?_
  have hpc : s.pc + 1 + 1 = s.arch.pc + 2 := pc_add_two s
  refine agrees_incPc_goto h.1 hr rfl (hpc ▸ hp2) (by show s.pc + 1 + 1 + 1 = s.pc + 3; omega) ?_
  simp [issueAll, afterIncPc, afterMemoryOperand, afterRegisterOperand, State.arch, ArchState.setReg, ArchState.reg,
    State.reg, hop, reg0_exists h]

/-- R170. -/
theorem callProgram_agrees : Agrees s (runMicro (callProgram (some (s.cell (s.pc + 1)))) s) (archCall s.arch) := by
  simp only [callProgram, List.append_assoc]
  refine agrees_incPc h.1 hr hp ?_
  refine agrees_operand ⟨hr, rfl⟩ rfl rfl fun hp1 => ?_
  refine agrees_unraising hr rfl (agrees_incPc h.1 hr hp1 ?_)
  rw [runMicro_cons (by exact hr), microStep_stkDecTop]
  by_cases hfull : s.stkTop - 1 < s.stkBot
  · rw [stkDecTopStep_full (by exact hfull), if_pos (by exact hfull)]
    exact agrees_raise (by exact ⟨hr, rfl⟩) _ _
  · have ha := push_address h (by omega : s.stkTop ≠ s.stkBot)
    rw [stkDecTopStep_room (by exact hfull), if_neg (by exact hfull), archMemWrite, if_pos (by exact ha),
      runMicro_cons (by exact hr), microStep_read_stkTop,
      runMicro_store_valid (by exact hr) (by exact h.pend) (by exact ha)]
    refine agrees_goto hr rfl ?_
    simp [issueAll, afterIncPc, afterStore, readStep, State.arch, selectBit, pc_add_two]

omit hp in
/-- R171. -/
theorem retProgram_agrees : Agrees s (runMicro retProgram s) (archRet s.arch) := by
  have hsplit : runMicro retProgram s = runMicro [.store .pc] (pop s) :=
    runMicro_append [.stkCheckNotEmpty, .read .stkTop, .memRead, .stkIncTop] [.store .pc] s
  rw [hsplit, pop_eq h hr]
  by_cases hempty : s.stkTop = s.cfg.stackTopInit
  · rw [if_pos hempty, archRet, if_pos (by exact hempty)]
    exact agrees_raise ⟨hr, rfl⟩ _ _
  · rw [if_neg hempty, archRet, if_neg (by exact hempty), archMemRead, if_pos (by exact pop_address h hempty),
      cell_of_valid (pop_address h hempty)]
    exact agrees_goto hr rfl rfl

end Programs

end Sys2Proof.Machine
end

section
/-! # The step refines the architectural step (R9) -/

namespace Sys2Proof.Machine

variable {s : State}

/-- R117: from a well-formed running state the host refuses nothing. -/
theorem step_eq_instructionStep (h : s.WF) (hr : s.run = .running) : step s = instructionStep s := by
  simp only [step, hostStep, if_pos h.1, hr, if_pos h.pend]

/-- R117: a step from a valid `PC` is FETCH and the first half of DECODE_DISPATCH, then the dispatch. -/
theorem step_of_valid (h : s.WF) (hr : s.run = .running) (hp : ValidAddress s.cfg s.pc) :
    step s = dispatch { s with ext := s.cell s.pc, ir := s.cell s.pc, iba := s.cell s.pc } := by
  rw [step_eq_instructionStep h hr]
  simp only [instructionStep, fetchDecode_valid hr hp, hr]

/-- R110: a step from an invalid `PC` ends at FETCH. -/
theorem step_of_invalid (h : s.WF) (hr : s.run = .running) (hp : ¬ ValidAddress s.cfg s.pc) :
    step s = .next ({ s with ext := s.pc }.raise .outOfBoundsAddress s.pc) := by
  rw [step_eq_instructionStep h hr]
  simp only [instructionStep, fetchDecode_invalid hr hp, State.raise_run]

theorem archStep_of_rule (hp : ValidAddress s.cfg s.pc) {opcode : Nat} {rule : ArchState → ArchResult}
    (hop : s.cell s.pc = opcode) (hrule : archInstruction opcode = some rule) : archStep s.arch = rule s.arch := by
  have hread : cellRead s.arch.mem s.arch.pc.toNat = opcode := (cell_of_valid hp).symm.trans hop
  rw [archStep, archMemRead, if_pos (by exact hp), hread, if_pos (by omega), Int.toNat_natCast, hrule]

theorem archStep_of_not_opcode (hp : ValidAddress s.cfg s.pc) (hop : ¬ (0 ≤ s.cell s.pc ∧ s.cell s.pc ≤ 20)) :
    archStep s.arch = .done { s.arch with run := .halted } := by
  have hread : cellRead s.arch.mem s.arch.pc.toNat = s.cell s.pc := (cell_of_valid hp).symm
  rw [archStep, archMemRead, if_pos (by exact hp), hread]
  by_cases h0 : 0 ≤ s.cell s.pc
  · obtain ⟨k, hk⟩ := Nat.exists_eq_add_of_le' (show 21 ≤ (s.cell s.pc).toNat by omega)
    rw [if_pos h0, hk]
    rfl
  · rw [if_neg h0]

theorem archStep_of_invalid (hp : ¬ ValidAddress s.cfg s.pc) :
    archStep s.arch = .raised .outOfBoundsAddress s.pc := if_neg hp

/-- Every instruction whose operand words stand after `PC` agrees with the rule of its opcode. -/
theorem instrProgram_agrees (h : s.WF) (hr : s.run = .running) (hp : ValidAddress s.cfg s.pc) {i : Instr}
    {rest : List Int} (hwords : [s.cell (s.pc + 1), s.cell (s.pc + 2)] = i.operands ++ rest) :
    ∃ rule, archInstruction i.opcode = some rule ∧ Agrees s (runMicro (instrProgram i) s) (rule s.arch) := by
  cases i <;> cases hwords
  case add => exact ⟨_, rfl, accMemProgram_agrees h hr hp fun _ _ => rfl⟩
  case sub => exact ⟨_, rfl, accMemProgram_agrees h hr hp fun _ _ => rfl⟩
  case jmp => exact ⟨_, rfl, jmpProgram_agrees h hr hp⟩
  case jz | je => exact ⟨_, rfl, condJumpProgram_agrees h hr hp .zero .ifSet⟩
  case jn => exact ⟨_, rfl, condJumpProgram_agrees h hr hp .negative .ifSet⟩
  case jnz | jne => exact ⟨_, rfl, condJumpProgram_agrees h hr hp .zero .ifClear⟩
  case read => exact ⟨_, rfl, readProgram_agrees h hr hp⟩
  case store => exact ⟨_, rfl, storeProgram_agrees h hr hp⟩
  case ldi => exact ⟨_, rfl, ldiProgram_agrees h hr hp⟩
  case inc => exact ⟨_, rfl, incProgram_agrees h hr hp⟩
  case incmem => exact ⟨_, rfl, incmemProgram_agrees h hr hp⟩
  case moveregreg => exact ⟨_, rfl, moveregregProgram_agrees h hr hp⟩
  case addregreg => exact ⟨_, rfl, regRegProgram_agrees h hr hp fun _ _ => rfl⟩
  case subregreg => exact ⟨_, rfl, regRegProgram_agrees h hr hp fun _ _ => rfl⟩
  case cmp => exact ⟨_, rfl, cmpProgram_agrees h hr hp⟩
  case addregmem => exact ⟨_, rfl, regMemProgram_agrees h hr hp fun _ _ => rfl⟩
  case subregmem => exact ⟨_, rfl, regMemProgram_agrees h hr hp fun _ _ => rfl⟩
  case call => exact ⟨_, rfl, callProgram_agrees h hr hp⟩
  case ret => exact ⟨_, rfl, retProgram_agrees h hr⟩

/-- The dispatch of a fetched and decoded state: the instruction's rule, or the halt (R111, R185). -/
theorem dispatch_agrees (h : s.WF) (hr : s.run = .running) (hp : ValidAddress s.cfg s.pc)
    (hiba : s.iba = s.cell s.pc) : ∃ t, dispatch s = .next t ∧ Agrees s t (archStep s.arch) := by
  unfold dispatch
  split
  · rename_i i rest hd
    obtain ⟨hop, hwords⟩ := List.cons.inj (encode_append_of_decode hd)
    obtain ⟨rule, hrule, hagrees⟩ := instrProgram_agrees h hr hp hwords
    rw [archStep_of_rule hp (hiba.symm.trans hop) hrule]
    exact ⟨_, exec_of_running hr i, hagrees⟩
  · rename_i e hd
    rw [archStep_of_not_opcode hp (hiba ▸ not_opcode_of_decode_error hd)]
    exact ⟨_, rfl, rfl⟩

/-- R9 for a whole step: FETCH, then the halt or the instruction. -/
theorem step_agrees (h : s.WF) (hr : s.run = .running) : ∃ t, step s = .next t ∧ Agrees s t (archStep s.arch) := by
  by_cases hp : ValidAddress s.cfg s.pc
  · have hfetched : State.WF { s with ext := s.cell s.pc, ir := s.cell s.pc, iba := s.cell s.pc } :=
      fetchDecode_valid hr hp ▸ fetchDecode_wf h
    rw [step_of_valid h hr hp]
    exact dispatch_agrees hfetched hr hp rfl
  · rw [step_of_invalid h hr hp, archStep_of_invalid hp]
    exact ⟨_, rfl, rfl⟩

/-- Settles O28. -/
theorem stepRefinesArchitecture : Obligations.StepRefinesArchitecture := by
  intro s h hr
  obtain ⟨t, hstep, hagrees⟩ := step_agrees h hr
  cases hresult : archStep s.arch <;> rw [hresult] at hagrees <;> exact ⟨t, hstep, hagrees⟩

end Sys2Proof.Machine
end

section
/-! # FLAGS.update on every flags word (R7, R14, R96, R108) -/

namespace Sys2Proof.Machine

/-- Setting bit `i` keeps the bits above it and puts `b` at the bottom of them. -/
theorem withBit_ediv (v : Int) (i : Nat) (b : Bool) :
    withBit v i b / ((2 ^ i : Nat) : Int) = 2 * (v / ((2 ^ i : Nat) : Int) / 2) + b.toInt := by
  have hpos : ((2 ^ i : Nat) : Int) ≠ 0 := by positivity
  rw [withBit, Int.add_mul_ediv_left _ _ hpos]
  have hbit : (wordBit v i).toInt = v / ((2 ^ i : Nat) : Int) % 2 := by
    unfold wordBit
    generalize v / ((2 ^ i : Nat) : Int) = q
    rcases Int.emod_two_eq q with h | h <;> simp [h]
  omega

theorem wordBit_withBit_same (v : Int) (i : Nat) (b : Bool) : wordBit (withBit v i b) i = b := by
  rw [wordBit, withBit_ediv]
  cases b <;> simp

/-- A higher bit: shifting by one more than `i` drops the bit that was set. -/
theorem wordBit_withBit_above {i j : Nat} (hij : i < j) (v : Int) (b : Bool) :
    wordBit (withBit v i b) j = wordBit v j := by
  obtain ⟨k, rfl⟩ := Nat.exists_eq_add_of_lt hij
  have hshift : ∀ z : Int, z / ((2 ^ (i + k + 1) : Nat) : Int) =
      z / ((2 ^ i : Nat) : Int) / 2 / ((2 ^ k : Nat) : Int) := by
    intro z
    rw [Int.ediv_ediv_of_nonneg (by positivity), Int.ediv_ediv_of_nonneg (by positivity)]
    push_cast
    ring_nf
  have hhalf : withBit v i b / ((2 ^ i : Nat) : Int) / 2 = v / ((2 ^ i : Nat) : Int) / 2 := by
    rw [withBit_ediv]
    cases b with
    | false => simp
    | true => simp; omega
  rw [wordBit, wordBit, hshift, hshift, hhalf]

/-- A lower bit: the change is a multiple of two of its places. -/
theorem wordBit_withBit_below {i j : Nat} (hji : j < i) (v : Int) (b : Bool) :
    wordBit (withBit v i b) j = wordBit v j := by
  obtain ⟨k, rfl⟩ := Nat.exists_eq_add_of_lt hji
  have hpos : ((2 ^ j : Nat) : Int) ≠ 0 := by positivity
  have hsplit : withBit v (j + k + 1) b =
      v + ((2 ^ j : Nat) : Int) * (2 * (2 ^ k * (b.toInt - (wordBit v (j + k + 1)).toInt))) := by
    rw [withBit]
    push_cast
    ring
  rw [wordBit, hsplit, Int.add_mul_ediv_left _ _ hpos, Int.add_mul_emod_self_left, wordBit]

/-- R7: setting one bit of a Word, read back at any place. -/
theorem wordBit_withBit (v : Int) (i j : Nat) (b : Bool) :
    wordBit (withBit v i b) j = if j = i then b else wordBit v j := by
  rcases lt_trichotomy j i with h | rfl | h
  · rw [if_neg h.ne, wordBit_withBit_below h]
  · rw [if_pos rfl, wordBit_withBit_same]
  · rw [if_neg h.ne', wordBit_withBit_above h]

/-- R108 at each place, from any flags word. -/
theorem wordBit_flagsAfter (f r : Int) (k : Nat) :
    wordBit (flagsAfter f r) k = if k = 0 then decide (r = 0) else if k = 1 then decide (r < 0) else wordBit f k := by
  simp only [flagsAfter, flagSet, flagIndex]
  by_cases hz : r = 0
  · subst hz
    simp only [if_pos, lt_irrefl, if_false, wordBit_withBit]
    split_ifs <;> simp_all
  · by_cases hn : r < 0 <;> simp only [hz, hn, if_true, if_false, wordBit_withBit] <;> split_ifs <;> simp_all

/-- Settles O12: each bit of the updated flags word by its place. -/
theorem flagUpdatePolicy : Obligations.FlagUpdatePolicy := by
  intro s
  rw [microStep_flagsUpdate]
  refine ⟨?_, ?_, fun k hk => ?_, rfl⟩
  · simp [State.flagZ, flagGet, flagIndex, wordBit_flagsAfter]
  · simp [State.flagN, flagGet, flagIndex, wordBit_flagsAfter]
  · rw [State.setFlags_flags, wordBit_flagsAfter, if_neg (by omega), if_neg (by omega)]

end Sys2Proof.Machine
end

section
/-! # Push and pop from a well-formed state (R17, R51, R52), and the cells a loader leaves blank (R27) -/

namespace Sys2Proof.Machine

variable {s : State}

/-- R51 with room: the decrement, then a store that cannot leave memory. -/
theorem push_of_room (h : s.WF) (hr : s.run = .running) (hne : s.stkTop ≠ s.stkBot) (v : Int) :
    push v s = { s with stkTop := s.stkTop - 1, ext := v, mem := cellWrite s.mem (s.stkTop - 1).toNat v } := by
  obtain ⟨-, hlo, -⟩ := h.stack
  have hdec : runMicro [.stkDecTop] s = { s with stkTop := s.stkTop - 1 } := by
    rw [runMicro_cons hr, runMicro_nil, microStep_stkDecTop, stkDecTopStep_room (by omega)]
  have hrun : (runMicro [.stkDecTop] s).run = .running := by rw [hdec]; exact hr
  simp only [push, hrun]
  rw [hdec, memWriteAt_eq (by exact hr) (by exact h.pend), if_pos (by exact push_address h hne)]

/-- R51 without room: the decrement raises and nothing is written. -/
theorem push_of_full (hr : s.run = .running) (hfull : s.stkTop - 1 < s.stkBot) (v : Int) :
    push v s = s.raise .stackOverflow s.stkTop := by
  have hdec : runMicro [.stkDecTop] s = s.raise .stackOverflow s.stkTop := by
    rw [runMicro_cons hr, runMicro_nil, microStep_stkDecTop, stkDecTopStep_full hfull]
  simp only [push, hdec, State.raise_run]

theorem cell_writeCell_same (hm : Memory.wf s.mem) {a : Int} (ha : ValidAddress s.cfg a) (v : Int) :
    (s.writeCell a v).cell a = v := by
  rw [cell_of_valid (by exact ha), State.writeCell_mem, cellRead_cellWrite_same hm]

theorem cell_writeCell_other {a b : Int} (ha : ValidAddress s.cfg a) (hne : b ≠ a) (v : Int) :
    (s.writeCell a v).cell b = s.cell b := by
  obtain ⟨ha0, -⟩ := ha
  rw [State.cell, State.cell, State.writeCell_cfg, State.writeCell_mem]
  by_cases hb : ValidAddress s.cfg b
  · obtain ⟨hb0, -⟩ := id hb
    rw [if_pos hb, if_pos hb, cellRead_cellWrite_other (by omega)]
  · rw [if_neg hb, if_neg hb]

/-- Settles O14: with `StkBot ≤ StkTop` (R17) the overflow test is equality, and the rest is the two cases of a push. -/
theorem pushWritesBelowTop : Obligations.PushWritesBelowTop := by
  intro s v h hr
  obtain ⟨-, hlo, -⟩ := h.stack
  refine ⟨by omega, fun hfull => push_of_full hr (by omega) v, fun hne => ?_⟩
  have ha := push_address h hne
  have hmem : Memory.wf s.mem := by
    obtain ⟨-, -, -, -, -, hmem, -⟩ := h
    exact hmem
  have hcell : ∀ b, (push v s).cell b = (s.writeCell (s.stkTop - 1) v).cell b := by
    intro b
    rw [push_of_room h hr hne]
    rfl
  refine ⟨push_of_room h hr hne v, ?_, fun b hb => ?_⟩
  · rw [hcell, cell_writeCell_same hmem ha]
  · rw [hcell, cell_writeCell_other ha hb]

/-- Settles O15: the two cases of a pop. -/
theorem popReadsTop : Obligations.PopReadsTop := by
  intro s h hr
  rw [pop_eq h hr]
  refine ⟨fun hempty => ?_, fun hne => ?_⟩
  · rw [if_pos hempty]
    rfl
  · rw [if_neg hne]

/-! ### Cells that the image does not name -/

/-- A cell that the image does not name reads blank after loading. -/
theorem cellRead_loadImage_of_unnamed {image : Image} {a : Nat} (hvalid : ∀ p ∈ image, 0 ≤ p.1)
    (ha : (a : Int) ∉ image.map Prod.fst) : cellRead (loadImage image) a = blankWord := by
  induction image with
  | nil => rfl
  | cons p rest ih =>
    obtain ⟨hhead, hrest⟩ := not_or.mp (mt List.mem_cons.mpr ha)
    have hp := hvalid p (by simp)
    rw [loadImage, cellRead_cellWrite_other (by omega)]
    exact ih (fun q hq => hvalid q (by simp [hq])) hrest

/-- Settles O18: the reset values by definition, the blank cells by induction on the image. -/
theorem resetChosenValues : Obligations.ResetChosenValues := by
  intro c image s h
  obtain ⟨-, ⟨hfits, -⟩, rfl⟩ := launch_next.mp h
  refine ⟨rfl, rfl, rfl, rfl, rfl, rfl, rfl, rfl, fun a ha => ?_⟩
  unfold State.cell
  split
  · rename_i hvalid
    obtain ⟨ha0, -⟩ := hvalid
    refine cellRead_loadImage_of_unnamed (fun p hp => (hfits p hp).1.1) ?_
    rwa [Int.toNat_of_nonneg ha0]
  · rfl

end Sys2Proof.Machine
end

section
/-! # Frames over all instructions (R10, R14 to R17, R26): what no micro-operation of a program writes, the program
leaves -/

namespace Sys2Proof.Machine

/-! ### Which micro-operations write what -/

/-- The micro-operations that write `FLAGS` (R96, R108); `microStep_flags_of_not_writes`. -/
def MicroOp.writesFlags : MicroOp → Bool
  | .flagsUpdate | .flagsSetBit _ _ => true
  | _ => false

/-- The micro-operations that write `StkTop` (R16); `microStep_stkTop_of_not_writes`. -/
def MicroOp.writesStkTop : MicroOp → Bool
  | .stkDecTop | .stkIncTop => true
  | _ => false

/-- The micro-operations that write Reg0 by name (R93, R95); `microStep_x_cases`. -/
def MicroOp.writesReg0 : MicroOp → Bool
  | .store .reg0 | .internalStore .reg0 => true
  | _ => false

theorem microStep_flags_of_not_writes {op : MicroOp} (h : op.writesFlags = false) (s : State) :
    (microStep op s).flags = s.flags :=
  microStep_flags (by rintro rfl; cases h) (by rintro i b rfl; cases h) s

theorem microStep_stkTop_of_not_writes {op : MicroOp} (h : op.writesStkTop = false) (s : State) :
    (microStep op s).stkTop = s.stkTop :=
  microStep_stkTop (by rintro rfl; cases h) (by rintro rfl; cases h) s

/-- Everything a micro-operation can do to the register file. -/
theorem microStep_x_cases (op : MicroOp) (s : State) :
    (microStep op s).x = s.x ∨ (op.writesReg0 = true ∧ ∃ v, (microStep op s).x = s.x.set 0 v) ∨
      (op = .demuxInternalStore ∧ (microStep op s).x = s.x.set s.sel s.ibb) := by
  cases op with
  | store r =>
    cases r with
    | reg0 => exact .inr (.inl ⟨rfl, _, rfl⟩)
    | pc | ir => exact .inl rfl
  | internalStore r =>
    cases r with
    | reg0 => exact .inr (.inl ⟨rfl, _, rfl⟩)
    | pc => exact .inl rfl
  | demuxInternalStore => exact .inr (.inr ⟨rfl, rfl⟩)
  | read r | internalRead r => cases r <;> exact .inl rfl
  | aluStoreOperand k | aluInternalStoreOperand k | smStoreIn k => cases k <;> exact .inl rfl
  | memRead | operandRead =>
    simp only [microStep, memReadStep]
    split <;> exact .inl rfl
  | memStore | demuxSetValue | stkDecTop | stkCheckNotEmpty =>
    simp only [microStep, memStoreStep, demuxSetValueStep, stkDecTopStep, stkCheckNotEmptyStep]
    repeat' split
    all_goals exact .inl rfl
  | _ => exact .inl rfl

/-- R10: "its length never changes during a run". -/
theorem microStep_x_length (op : MicroOp) (s : State) : (microStep op s).x.length = s.x.length := by
  rcases microStep_x_cases op s with hx | ⟨-, v, hx⟩ | ⟨-, hx⟩ <;> rw [hx]
  · exact List.length_set
  · exact List.length_set

/-! ### From micro-operations to programs, instructions and steps -/

section Keeps

variable {α : Type} {f : State → α}

/-- What only the micro-operations `writes` change, a program without them leaves. -/
theorem runMicro_keeps {writes : MicroOp → Bool}
    (keep : ∀ {op}, writes op = false → ∀ s, f (microStep op s) = f s) {ops : List MicroOp}
    (hops : ops.any writes = false) (s : State) : f (runMicro ops s) = f s := by
  refine runMicro_induction (P := fun t => f t = f s) (fun op hop t ht => ?_) rfl
  exact (keep (Bool.eq_false_iff.mpr (List.any_eq_false.mp hops op hop)) t).trans ht

theorem exec_keeps {writes : MicroOp → Bool}
    (keep : ∀ {op}, writes op = false → ∀ s, f (microStep op s) = f s) {i : Instr} {s t : State}
    (hi : (instrProgram i).any writes = false) (h : exec i s = .next t) : f t = f s := by
  rw [exec_next h]
  exact runMicro_keeps keep hi s

/-- What no micro-operation and no halt changes, no step changes. -/
theorem step_keeps (keep : ∀ op s, f (microStep op s) = f s) (halt : ∀ s, f (State.halt s) = f s) {s t : State}
    (h : step s = .next t) : f t = f s := by
  have hrun : ∀ ops u, f (runMicro ops u) = f u := fun ops u =>
    runMicro_keeps (writes := fun _ => false) (fun _ => keep _) (by simp) u
  obtain ⟨-, -, -, hi⟩ := hostStep_next h
  simp only [instructionStep] at hi
  split at hi
  · unfold dispatch at hi
    split at hi
    · rw [exec_next hi, hrun, fetchDecode, hrun]
    · cases hi
      rw [halt, fetchDecode, hrun]
  · cases hi
    exact hrun _ s

end Keeps

/-- Settles O31: no micro-operation and no halt changes any of the three. -/
theorem configurationIsConstant : Obligations.ConfigurationIsConstant := fun _ _ h =>
  ⟨step_keeps (f := State.cfg) microStep_cfg State.halt_cfg h,
    step_keeps (f := State.stkBot) microStep_stkBot State.halt_stkBot h,
    step_keeps (f := fun u => u.x.length) microStep_x_length (fun _ => rfl) h⟩

/-- R15: the instructions whose microprogram writes `FLAGS`. -/
theorem instrProgram_writesFlags (i : Instr) :
    (instrProgram i).any MicroOp.writesFlags = decide (i.opcode ∈ [0, 1, 8, 12, 13, 18]) := by
  cases i <;> rfl

/-- R16: the instructions whose microprogram moves `StkTop`. -/
theorem instrProgram_writesStkTop (i : Instr) :
    (instrProgram i).any MicroOp.writesStkTop = decide (i.opcode ∈ [10, 11]) := by
  cases i <;> rfl

/-- Settles O32: the other microprograms hold no micro-operation that writes `FLAGS`. -/
theorem flagWriters : Obligations.FlagWriters := fun i _ _ hi h =>
  exec_keeps microStep_flags_of_not_writes ((instrProgram_writesFlags i).trans (decide_eq_false hi)) h

/-- Settles O33: the other microprograms hold no micro-operation that moves `StkTop`. -/
theorem stackPointerWriters : Obligations.StackPointerWriters := fun i s t h =>
  ⟨fun hi => exec_keeps microStep_stkTop_of_not_writes ((instrProgram_writesStkTop i).trans (decide_eq_false hi)) h,
    by rw [exec_next h, runMicro_stkBot]⟩

end Sys2Proof.Machine
end

section
/-! # Carried operand words are the words that the control unit reads (R116, R117; log 10)

Two programs that differ in where an OPERAND gets its word do the same from every state that is `k` words into the
instruction, as long as memory and `PC` have not been written in between. -/

namespace Sys2Proof.Machine

/-- The programs `p` and `q` do the same from every state with the memory of `s` and `PC` at the `k`-th word of the
instruction at `s.pc`. -/
def SameFrom (s : State) (k : Int) (p q : List MicroOp) : Prop :=
  ∀ u : State, u.cfg = s.cfg → u.mem = s.mem → u.pc = s.pc + k → runMicro p u = runMicro q u

/-- The micro-operations that write neither memory nor `PC`. -/
def MicroOp.quiet : MicroOp → Bool
  | .memStore | .store .pc | .internalStore .pc => false
  | _ => true

theorem microStep_pc_of_quiet {op : MicroOp} (h : op.quiet = true) (s : State) : (microStep op s).pc = s.pc := by
  cases op with
  | store r | internalStore r =>
    cases r with
    | pc => cases h
    | _ => rfl
  | read r | internalRead r => cases r <;> rfl
  | aluStoreOperand k | aluInternalStoreOperand k | smStoreIn k => cases k <;> rfl
  | memStore => cases h
  | memRead | operandRead =>
    simp only [microStep, memReadStep]
    split <;> rfl
  | demuxSetValue | stkDecTop | stkCheckNotEmpty =>
    simp only [microStep, demuxSetValueStep, stkDecTopStep, stkCheckNotEmptyStep]
    split <;> rfl
  | _ => rfl

theorem microStep_mem_of_quiet {op : MicroOp} (h : op.quiet = true) (s : State) : (microStep op s).mem = s.mem :=
  microStep_mem (by rintro rfl; cases h) s

section Rules

variable {s : State} {k : Int} {p q : List MicroOp}

theorem SameFrom.refl (p : List MicroOp) : SameFrom s k p p := fun _ _ _ _ => rfl

theorem SameFrom.quiet {ops : List MicroOp} (hops : ops.all MicroOp.quiet = true) (h : SameFrom s k p q) :
    SameFrom s k (ops ++ p) (ops ++ q) := by
  intro u hcfg hmem hpc
  have hkept : (runMicro ops u).mem = s.mem ∧ (runMicro ops u).pc = s.pc + k := by
    refine runMicro_induction (P := fun t => t.mem = s.mem ∧ t.pc = s.pc + k) (fun op hop t ⟨hm, hp⟩ => ?_) ⟨hmem, hpc⟩
    have hquiet := List.all_eq_true.mp hops op hop
    exact ⟨(microStep_mem_of_quiet hquiet t).trans hm, (microStep_pc_of_quiet hquiet t).trans hp⟩
  rw [runMicro_append, runMicro_append]
  exact h _ (by rw [runMicro_cfg, hcfg]) hkept.1 hkept.2

/-- INCPC from an existing cell goes to the next word of the instruction (R109). -/
theorem SameFrom.incPc (hc : s.cfg.WF) (ha : ValidAddress s.cfg (s.pc + k)) (h : SameFrom s (k + 1) p q) :
    SameFrom s k (incPc ++ p) (incPc ++ q) := by
  intro u hcfg hmem hpc
  rw [runMicro_append, runMicro_append]
  by_cases hr : u.run = .running
  · rw [runMicro_incPc_valid (hcfg ▸ hc) hr (hcfg ▸ hpc ▸ ha)]
    exact h _ hcfg hmem (by simp only; omega)
  · simp only [runMicro_of_ended hr]

/-- OPERAND answers the word that stands at `PC`, or raises (R116). -/
theorem SameFrom.operand {w : Int} (hw : s.cell (s.pc + k) = w)
    (h : ValidAddress s.cfg (s.pc + k) → SameFrom s k p q) :
    SameFrom s k (operand (some w) ++ p) (operand none ++ q) := by
  intro u hcfg hmem hpc
  rw [runMicro_append, runMicro_append]
  by_cases hr : u.run = .running
  · have hcell : u.cell u.pc = w := by rw [← hw, State.cell, State.cell, hcfg, hmem, hpc]
    rw [← runMicro_operand_agree hr fun _ => hcell]
    by_cases ha : ValidAddress u.cfg u.pc
    · rw [runMicro_operand_some hr ha]
      exact h (hcfg ▸ hpc ▸ ha) _ hcfg hmem hpc
    · simp only [runMicro_operand_invalid hr ha, runMicro_raise]
  · simp only [runMicro_of_ended hr]

theorem SameFrom.registerOperand {w : Int} (hw : s.cell (s.pc + k) = w)
    (h : ValidAddress s.cfg (s.pc + k) → SameFrom s k p q) :
    SameFrom s k (registerOperand (some w) ++ p) (registerOperand none ++ q) := by
  simp only [Machine.registerOperand, List.append_assoc]
  exact .operand hw fun ha => .quiet rfl (h ha)

theorem SameFrom.memoryOperand {w : Int} (hw : s.cell (s.pc + k) = w)
    (h : ValidAddress s.cfg (s.pc + k) → SameFrom s k p q) :
    SameFrom s k (memoryOperand (some w) ++ p) (memoryOperand none ++ q) := by
  simp only [Machine.memoryOperand, List.append_assoc]
  exact .quiet rfl (.operand hw fun ha => .quiet rfl (h ha))

theorem SameFrom.registerPair (hc : s.cfg.WF) (hp : ValidAddress s.cfg s.pc) :
    SameFrom s 0 (registerPair (some (s.cell (s.pc + 1))) (some (s.cell (s.pc + 2))) ++ p)
      (registerPair none none ++ p) := by
  simp only [Machine.registerPair, List.append_assoc]
  refine .incPc hc (by simpa using hp) (.registerOperand rfl fun h1 => ?_)
  exact .quiet rfl (.incPc hc h1 (.registerOperand rfl fun _ => .refl _))

end Rules

/-- The program that the dispatch issues, with the carried words standing after `PC`, is the control store's. -/
theorem sameFrom_microprogram {s : State} (hc : s.cfg.WF) (hp : ValidAddress s.cfg s.pc) {i : Instr} {rest : List Int}
    (hwords : [s.cell (s.pc + 1), s.cell (s.pc + 2)] = i.operands ++ rest) :
    ∃ program, microprogram i.opcode = some program ∧ SameFrom s 0 (instrProgram i) program := by
  have h0 : ValidAddress s.cfg (s.pc + 0) := by simpa using hp
  cases i <;> cases hwords <;> refine ⟨_, rfl, ?_⟩ <;>
    simp only [instrProgram, addProgram, subProgram, accMemProgram, jmpProgram, jzProgram, jnProgram, jeProgram,
      jnzProgram, jneProgram, condJumpProgram, readProgram, storeProgram, ldiProgram, callProgram, incmemProgram,
      moveregregProgram, addregregProgram, subregregProgram, regRegProgram, cmpProgram, addregmemProgram,
      subregmemProgram, regMemProgram, List.append_assoc]
  case inc | ret => exact .refl _
  case add | sub => exact .incPc hc h0 (.memoryOperand rfl fun _ => .refl _)
  case jmp | jz | jn | jnz | je | jne | read | store | ldi | call =>
    exact .incPc hc h0 (.operand rfl fun _ => .refl _)
  case incmem =>
    exact .incPc hc h0 (.memoryOperand rfl fun _ => .quiet rfl (.operand rfl fun _ => .refl _))
  case moveregreg | addregreg | subregreg | cmp => exact .registerPair hc hp
  case addregmem | subregmem =>
    exact .incPc hc h0 (.registerOperand rfl fun h1 => .incPc hc h1 (.memoryOperand rfl fun _ => .refl _))

/-- The dispatch issues the microprogram of the opcode on `IBA`, every operand read from memory (R111). -/
theorem dispatch_eq_microprogram {s : State} (hc : s.cfg.WF) (hr : s.run = .running) (hp : ValidAddress s.cfg s.pc)
    {program : List MicroOp} (h0 : 0 ≤ s.iba) (hprogram : microprogram s.iba.toNat = some program) :
    dispatch s = .next (runMicro program s) := by
  unfold dispatch
  split
  · rename_i i rest hd
    obtain ⟨hop, hwords⟩ := List.cons.inj (encode_append_of_decode hd)
    obtain ⟨program', hprogram', hsame⟩ := sameFrom_microprogram hc hp hwords
    have heq : program' = program := by
      rw [hop, Int.toNat_natCast, hprogram'] at hprogram
      exact Option.some.inj hprogram
    rw [exec_of_running hr, hsame s rfl rfl (by omega), heq]
  · rename_i e hd
    exfalso
    obtain ⟨n, hn⟩ := Nat.exists_eq_add_of_le' (show 21 ≤ s.iba.toNat by
      have := not_opcode_of_decode_error hd; omega)
    rw [hn] at hprogram
    cases hprogram

/-- Settles O27: FETCH and decode, then the dispatch. -/
theorem stepIsMicroprogramFromMemory : Obligations.StepIsMicroprogramFromMemory := by
  intro s program h hr hp h0 hprogram
  rw [step_of_valid h hr hp, runMicro_append, ← fetchDecode, fetchDecode_valid hr hp]
  exact dispatch_eq_microprogram (s := { s with ext := s.cell s.pc, ir := s.cell s.pc, iba := s.cell s.pc })
    h.1 hr hp h0 hprogram

end Sys2Proof.Machine
end

section
/-! # Which registers an instruction writes (R11) -/

namespace Sys2Proof.Machine

variable {s t : State}

/-! ### One register under one micro-operation -/

theorem reg_of_x_eq (hx : t.x = s.x) (j : Nat) : t.reg j = s.reg j := by rw [State.reg, State.reg, hx]

theorem reg_of_x_eq_set {i j : Nat} {v : Int} (hx : t.x = s.x.set i v) (hj : j ≠ i) : t.reg j = s.reg j := by
  simp [State.reg, hx, List.getD_eq_getElem?_getD, List.getElem?_set_ne hj.symm]

/-- The micro-operations that write the register file; `microStep_x_of_not_writes`. -/
def MicroOp.writesRegisters (op : MicroOp) : Bool := op.writesReg0 || op = .demuxInternalStore

/-- The micro-operations that can change another register than the one selected so far: those that name Reg0, and
`DEMUX.setValue`, after which another one is selected; `runMicro_reg_of_ne_sel`. -/
def MicroOp.writesUnselected (op : MicroOp) : Bool := op.writesReg0 || op = .demuxSetValue

theorem microStep_x_of_not_writes {op : MicroOp} (h : op.writesRegisters = false) (s : State) :
    (microStep op s).x = s.x := by
  obtain ⟨h0, hd⟩ := Bool.or_eq_false_iff.mp h
  rcases microStep_x_cases op s with hx | ⟨hw, -⟩ | ⟨rfl, -⟩
  · exact hx
  · simp [hw] at h0
  · simp at hd

/-- R106: without `DEMUX.registersInternalStore` only Reg0 can change. -/
theorem microStep_reg_of_ne_zero {j : Nat} (hj : j ≠ 0) {op : MicroOp} (h : decide (op = .demuxInternalStore) = false)
    (s : State) : (microStep op s).reg j = s.reg j := by
  rcases microStep_x_cases op s with hx | ⟨-, v, hx⟩ | ⟨rfl, -⟩
  · exact reg_of_x_eq hx j
  · exact reg_of_x_eq_set hx hj
  · simp at h

theorem microStep_sel {op : MicroOp} (h : op ≠ .demuxSetValue) (s : State) : (microStep op s).sel = s.sel := by
  cases op with
  | demuxSetValue => exact absurd rfl h
  | read r | store r | internalRead r | internalStore r => cases r <;> rfl
  | aluStoreOperand k | aluInternalStoreOperand k | smStoreIn k => cases k <;> rfl
  | memRead | operandRead =>
    simp only [microStep, memReadStep]
    split <;> rfl
  | memStore | stkDecTop | stkCheckNotEmpty =>
    simp only [microStep, memStoreStep, stkDecTopStep, stkCheckNotEmptyStep]
    repeat' split
    all_goals rfl
  | _ => rfl

theorem runMicro_sel {ops : List MicroOp} (hops : ops.any (fun op => decide (op = .demuxSetValue)) = false) (s : State) :
    (runMicro ops s).sel = s.sel :=
  runMicro_keeps (f := State.sel) (fun h => microStep_sel (of_decide_eq_false h)) hops s

/-- R105, R106: a program that neither selects nor names Reg0 leaves every register but the selected one. -/
theorem runMicro_reg_of_ne_sel {ops : List MicroOp} (hops : ops.any MicroOp.writesUnselected = false) {j : Nat}
    (hj : j ≠ s.sel) : (runMicro ops s).reg j = s.reg j := by
  refine (runMicro_induction (P := fun u => u.sel = s.sel ∧ u.reg j = s.reg j) (fun op hop u ⟨hsel, hreg⟩ => ?_)
    ⟨rfl, rfl⟩).2
  obtain ⟨h0, hd⟩ := Bool.or_eq_false_iff.mp (Bool.eq_false_iff.mpr (List.any_eq_false.mp hops op hop))
  refine ⟨(microStep_sel (of_decide_eq_false hd) u).trans hsel, Eq.trans ?_ hreg⟩
  rcases microStep_x_cases op u with hx | ⟨hw, -⟩ | ⟨-, hx⟩
  · exact reg_of_x_eq hx j
  · simp [hw] at h0
  · exact reg_of_x_eq_set hx (hsel ▸ hj)

/-! ### Everything a carried operand can leave -/

theorem runMicro_registerOperand_cases (hr : s.run = .running) (id : Int) :
    (runMicro (registerOperand (some id)) s).run ≠ .running ∨
      (0 ≤ id ∧ runMicro (registerOperand (some id)) s = afterRegisterOperand id s) := by
  by_cases hp : ValidAddress s.cfg s.pc
  · by_cases hid : ValidRegister s.cfg id
    · exact .inr ⟨hid.1, runMicro_registerOperand hr hp hid⟩
    · rw [runMicro_registerOperand_invalid hr hp hid]
      exact .inl (by simp)
  · rw [registerOperand, runMicro_append, runMicro_operand_invalid hr hp, runMicro_raise]
    exact .inl (by simp)

/-- A memory operand raises before it touches Reg0, or both addresses are valid (R188). -/
theorem runMicro_memoryOperand_cases (hr : s.run = .running) (hx : 0 < s.x.length) (a : Int) :
    ((runMicro (memoryOperand (some a)) s).run ≠ .running ∧ (runMicro (memoryOperand (some a)) s).x = s.x) ∨
      (ValidAddress s.cfg s.pc ∧ ValidAddress s.cfg a ∧
        runMicro (memoryOperand (some a)) s = afterMemoryOperand (s.cell a) s) := by
  by_cases hp : ValidAddress s.cfg s.pc
  · by_cases ha : ValidAddress s.cfg a
    · exact .inr ⟨hp, ha, runMicro_memoryOperand hr hx hp ha⟩
    · rw [runMicro_memoryOperand_invalid hr hp ha]
      exact .inl ⟨by simp, rfl⟩
  · rw [memoryOperand, List.append_assoc, runMicro_append, runMicro_cons hr, runMicro_cons (by exact hr), runMicro_nil,
      runMicro_append, runMicro_operand_invalid (by exact hr) (by exact hp), runMicro_raise]
    exact .inl ⟨by simp, rfl⟩

theorem runMicro_x_of_not_writes {ops : List MicroOp} (h : ops.any MicroOp.writesRegisters = false) (s : State) :
    (runMicro ops s).x = s.x :=
  runMicro_keeps (f := State.x) microStep_x_of_not_writes h s

/-! ### The microprograms that write through the Demux or carry a Word in Reg0 -/

/-- After a register operand, what follows runs with that register selected, or not at all. -/
theorem registerOperand_reg_of_ne {id : Int} {ops : List MicroOp} {j : Nat} (hj : (j : Int) ≠ id)
    (hops : ∀ u : State, u.x = s.x → j ≠ u.sel → (runMicro ops u).reg j = u.reg j) :
    (runMicro (registerOperand (some id) ++ ops) s).reg j = s.reg j := by
  have hx : (runMicro (registerOperand (some id)) s).x = s.x := runMicro_x_of_not_writes rfl s
  have hreg : (runMicro (registerOperand (some id)) s).reg j = s.reg j := reg_of_x_eq hx j
  rw [runMicro_append]
  by_cases hr : s.run = .running
  · rcases runMicro_registerOperand_cases hr id with hend | ⟨hid, hsel⟩
    · rw [runMicro_of_ended hend, hreg]
    · rw [hops _ hx (by rw [hsel, afterRegisterOperand]; simp only; omega), hreg]
  · rw [runMicro_of_ended hr] at hx ⊢
    rw [runMicro_of_ended hr]

/-- R160 to R162: after two register operands only the second can change. -/
theorem registerPair_reg_of_ne {a b : Int} {ops : List MicroOp} (hops : ops.any MicroOp.writesUnselected = false)
    {j : Nat} (hj : (j : Int) ≠ b) : (runMicro (registerPair (some a) (some b) ++ ops) s).reg j = s.reg j := by
  rw [registerPair, List.append_assoc, runMicro_append, registerOperand_reg_of_ne hj]
  · exact reg_of_x_eq (runMicro_x_of_not_writes rfl s) j
  · exact fun u _ hne => runMicro_reg_of_ne_sel hops hne

/-- R163, R164: Reg0 carries the Word to the ALU and is restored from `acc0`. -/
theorem memoryOperand_restore_x (hx : 0 < s.x.length) (a : Int) :
    (runMicro (memoryOperand (some a) ++ [.aluInternalReadOperand .zero, .internalStore .reg0]) s).x = s.x := by
  rw [runMicro_append]
  by_cases hr : s.run = .running
  · rcases runMicro_memoryOperand_cases hr hx a with ⟨hend, hsame⟩ | ⟨-, -, hafter⟩
    · rw [runMicro_of_ended hend, hsame]
    · rw [hafter, runMicro_cons (by exact hr), runMicro_cons (by exact hr), runMicro_nil]
      simp [afterMemoryOperand, State.reg, hx]
  · simp only [runMicro_of_ended hr]

/-- R163, R164: with Reg0 restored, only the selected register can change. -/
theorem regMemProgram_reg_of_ne (hx : 0 < s.x.length) {op : AluOp} {a addr : Int} {j : Nat} (hj : (j : Int) ≠ a) :
    (runMicro (regMemProgram op (some a) (some addr)) s).reg j = s.reg j := by
  have hincPc : ∀ u : State, (runMicro incPc u).x = u.x := runMicro_x_of_not_writes rfl
  have hsplit : regMemProgram op (some a) (some addr) =
      incPc ++ (registerOperand (some a) ++ (incPc ++
        ((memoryOperand (some addr) ++ [.aluInternalReadOperand .zero, .internalStore .reg0]) ++
          ([.demuxInternalRead, .aluStoreOperand .zero, .alu op, .aluInternalReadOperand .one, .demuxInternalStore] ++
            incPc)))) := rfl
  rw [hsplit, runMicro_append, registerOperand_reg_of_ne hj]
  · exact reg_of_x_eq (hincPc s) j
  · intro u hxu hne
    have hlen : 0 < (runMicro incPc u).x.length := by rwa [hincPc, hxu, hincPc]
    have hrestored := (memoryOperand_restore_x hlen addr).trans (hincPc u)
    have hsel : (runMicro (memoryOperand (some addr) ++ [.aluInternalReadOperand .zero, .internalStore .reg0])
        (runMicro incPc u)).sel = u.sel :=
      (runMicro_sel rfl _).trans (runMicro_sel rfl u)
    rw [runMicro_append, runMicro_append, runMicro_reg_of_ne_sel rfl (hsel ▸ hne)]
    exact reg_of_x_eq hrestored j

/-- R153: the sum is in Reg0 for the store, and Reg0 is restored from `acc0`. The store cannot raise in between: its
address is one that the program has read. -/
theorem incmemProgram_x (h : s.WF) (hr : s.run = .running) (a : Int) :
    (runMicro (incmemProgram (some a)) s).x = s.x := by
  have hx := reg0_exists h
  simp only [incmemProgram, List.append_assoc]
  rw [runMicro_append, runMicro_append]
  have hrun : (runMicro incPc s).run = .running := by rw [runMicro_incPc hr]; exact hr
  have hpend : (runMicro incPc s).pend = none := by rw [runMicro_incPc hr]; exact h.pend
  have hsame : (runMicro incPc s).x = s.x := runMicro_x_of_not_writes rfl s
  rw [← hsame] at hx ⊢
  generalize runMicro incPc s = u at hrun hpend hx
  rcases runMicro_memoryOperand_cases hrun hx a with ⟨hend, hkept⟩ | ⟨hp, ha, hafter⟩
  · rw [runMicro_of_ended hend, hkept]
  · have hsum : runMicro [.alu .inc, .aluInternalReadOperand .one, .internalStore .reg0]
        (afterMemoryOperand (u.cell a) u) = issueAll [.alu .inc, .aluInternalReadOperand .one, .internalStore .reg0]
          (afterMemoryOperand (u.cell a) u) := (runMicro_of_unraising (by exact hrun) rfl).1
    rw [hafter, runMicro_append, hsum, runMicro_append,
      runMicro_operand_some (by exact hrun) (by exact hp), List.cons_append, List.cons_append, List.cons_append,
      runMicro_store_valid (by exact hrun) (by exact hpend) (by exact ha), List.cons_append, List.cons_append,
      runMicro_cons (by exact hrun), runMicro_cons (by exact hrun), List.nil_append,
      runMicro_x_of_not_writes rfl]
    simp [issueAll, afterMemoryOperand, afterStore, readStep, State.reg, hx]

/-- R117: only a RUNNING machine answers an instruction with a next state. -/
theorem running_of_exec_next {i : Instr} (h : exec i s = .next t) : s.run = .running := by
  rw [exec_eq_issue] at h
  exact (issue_next.mp h).1

/-- Settles O35: the instructions by what their microprograms write: Reg0 by name, nothing, the register selected last,
or Reg0 as a carrier that is restored. -/
theorem registerWriters : Obligations.RegisterWriters := by
  intro i s t h hexec
  have hr := running_of_exec_next hexec
  have ht := exec_next hexec
  cases i
  case add | sub | read | ldi | inc =>
    exact fun j hj => exec_keeps (f := fun u => u.reg j) (microStep_reg_of_ne_zero hj) rfl hexec
  case jmp | jz | jn | jnz | je | jne | store | call | ret | cmp =>
    exact exec_keeps (f := State.x) microStep_x_of_not_writes rfl hexec
  case incmem a => exact ht ▸ incmemProgram_x h hr a
  case moveregreg a b | addregreg a b | subregreg a b =>
    intro j hj
    simp only [ht, instrProgram, moveregregProgram, addregregProgram, subregregProgram, regRegProgram,
      List.append_assoc]
    exact registerPair_reg_of_ne rfl hj
  case addregmem a b | subregmem a b => exact fun j hj => ht ▸ regMemProgram_reg_of_ne (reg0_exists h) hj

end Sys2Proof.Machine
end

section
/-! # Main memory: the read, the two phases of a store, and who stores (R40 to R46) -/

namespace Sys2Proof.Machine

variable {s : State}

/-- R42 on a machine that has ended: the bus is driven, and nothing is read. -/
theorem memReadAt_of_ended (hr : s.run ≠ .running) (a : Int) : memReadAt a s = putExt a s :=
  runMicro_of_ended (by exact hr) _

/-- R42: "reading an address twice with no write between gives the same Word", whether or not the cell exists. -/
theorem memReadAt_memReadAt_ext (hr : s.run = .running) (a : Int) :
    (memReadAt a (memReadAt a s)).ext = (memReadAt a s).ext := by
  by_cases ha : ValidAddress s.cfg a
  · have hread : memReadAt a s = { s with ext := cellRead s.mem a.toNat } := by rw [memReadAt_eq hr, if_pos ha]
    rw [hread, memReadAt_eq (by exact hr), if_pos (by exact ha)]
  · have hread : memReadAt a s = { s with ext := a }.raise .outOfBoundsAddress a := by rw [memReadAt_eq hr, if_neg ha]
    rw [hread, memReadAt_of_ended (by simp), putExt_ext, State.raise_ext]

/-- Settles O5. -/
theorem memoryReadMicroOp : Obligations.MemoryReadMicroOp := by
  intro s
  refine ⟨fun ha => ?_, fun ha => ?_, fun a hr => ⟨?_, memReadAt_memReadAt_ext hr a⟩⟩
  · rw [microStep_memRead, memReadStep_valid ha, cell_of_valid ha]
  · exact memReadStep_invalid ha _
  · exact runMicro_cons (by exact hr) _ _

/-- Settles O6: the two cases of the address phase. -/
theorem storeAddressPhase : Obligations.StoreAddressPhase := fun _ hp =>
  ⟨memStoreStep_address hp, memStoreStep_invalid hp⟩

/-- R43, R44, R46 (a): two `MEM.store` in a row are an address phase and a data phase, whatever the second Word on the
bus was meant to be. -/
theorem memStore_memStore (hp : s.pend = none) {a : Int} (ha : ValidAddress s.cfg a) (v : Int) :
    microStep .memStore (putExt v (microStep .memStore (putExt a s))) = putExt v (s.writeCell a v) := by
  have haddress : microStep .memStore (putExt a s) = { s with ext := a, pend := some a } :=
    memStoreStep_address (s := putExt a s) hp ha
  rw [haddress, microStep_memStore, memStoreStep_data (a := a) rfl]
  simp only [putExt, State.writeCell, hp]

/-- R45 at a valid address: the cell is written and the Word stays on the bus. -/
theorem memWriteAt_of_valid (hr : s.run = .running) (hp : s.pend = none) {a : Int} (ha : ValidAddress s.cfg a)
    (v : Int) : memWriteAt a v s = putExt v (s.writeCell a v) := by
  rw [memWriteAt_eq hr hp, if_pos ha]
  rfl

/-- Settles O7: each sequence of phases comes to one `writeCell` at the first address, or to the raise. -/
theorem twoPhaseStore : Obligations.TwoPhaseStore := by
  intro s hm hr
  refine ⟨fun a ha hpend => ?dataPhase, fun hp a v ha => ?whole, fun hp a v ha => ?invalid,
    fun hp a₁ a₂ ha₁ _ => ?twice⟩
  case dataPhase =>
    rw [microStep_memStore, memStoreStep_data hpend]
    exact ⟨cell_writeCell_same hm ha _, rfl, rfl, fun b hb => cell_writeCell_other ha hb _⟩
  case whole =>
    have hsame : (s.writeCell a v).cell a = v := cell_writeCell_same hm ha v
    rw [memWriteAt_of_valid hr hp ha]
    refine ⟨hsame, hp, hr, ?_, fun b hb => cell_writeCell_other ha hb v⟩
    rw [memReadAt_eq (by exact hr), if_pos (by exact ha)]
    exact (cell_of_valid (s := s.writeCell a v) ha).symm.trans hsame
  case invalid =>
    rw [memWriteAt_eq hr hp, if_neg ha]
    exact ⟨rfl, rfl, hp⟩
  case twice =>
    simp only [memStore_memStore hp ha₁]
    exact ⟨cell_writeCell_same hm ha₁ a₂, hp, fun b hb => cell_writeCell_other ha₁ hb a₂⟩

/-! ### The instructions that store -/

theorem microStep_cell_of_ne_memStore (a : Int) {op : MicroOp} (h : decide (op = .memStore) = false) (s : State) :
    (microStep op s).cell a = s.cell a := by
  rw [State.cell, State.cell, microStep_cfg, microStep_mem (of_decide_eq_false h)]

/-- R40: the instructions whose microprogram issues `MEM.store`. -/
theorem instrProgram_memStore (i : Instr) :
    (instrProgram i).any (fun op => decide (op = .memStore)) = decide (i.opcode ∈ [6, 10, 15]) := by
  cases i <;> rfl

/-- Settles O34: the other microprograms issue no `MEM.store`. -/
theorem memoryWriters : Obligations.MemoryWriters := fun i _ _ hi h a =>
  exec_keeps (f := fun u => u.cell a) (microStep_cell_of_ne_memStore a)
    ((instrProgram_memStore i).trans (decide_eq_false hi)) h

end Sys2Proof.Machine
end

section
/-! # Pushes and pops in a row (R53)

The values are any integers, so a state between two pushes need not be well-formed; `StackReady` is what is left of the
invariant. The pushed values then stand in memory from Top upward, the last one first. -/

namespace Sys2Proof.Machine

variable {s t : State}

/-- What a push needs and keeps, whatever is pushed. -/
structure StackReady (s : State) : Prop where
  running : s.run = .running
  idle : s.pend = none
  config : s.cfg.WF
  stack : s.StackOk
  canonical : Memory.wf s.mem

theorem State.WF.stackReady (h : s.WF) (hr : s.run = .running) : StackReady s := by
  obtain ⟨hcfg, -, -, -, hstack, hmem, -, hpend, -⟩ := h
  exact ⟨hr, hpend, hcfg, hstack, hmem⟩

theorem StackReady.push_address (h : StackReady s) (hroom : s.stkBot < s.stkTop) :
    ValidAddress s.cfg (s.stkTop - 1) := by
  obtain ⟨hb, -, hhi⟩ := h.stack
  obtain ⟨-, -, -, -, -, -, htop, hbot, -⟩ := h.config
  exact ⟨by omega, by omega⟩

/-- R51 with room, for any value. -/
theorem StackReady.push_eq (h : StackReady s) (hroom : s.stkBot < s.stkTop) (v : Int) :
    push v s = putExt v ({ s with stkTop := s.stkTop - 1 }.writeCell (s.stkTop - 1) v) := by
  have hdec : runMicro [.stkDecTop] s = { s with stkTop := s.stkTop - 1 } := by
    rw [runMicro_cons h.running, runMicro_nil, microStep_stkDecTop, stkDecTopStep_room (by omega)]
  have hrun : (runMicro [.stkDecTop] s).run = .running := by rw [hdec]; exact h.running
  simp only [push, hrun]
  rw [hdec, memWriteAt_of_valid (by exact h.running) (by exact h.idle) (by exact h.push_address hroom)]

theorem StackReady.push (h : StackReady s) (hroom : s.stkBot < s.stkTop) (v : Int) : StackReady (push v s) := by
  obtain ⟨hb, hlo, hhi⟩ := h.stack
  have hlo' : s.stkBot ≤ s.stkTop - 1 := by omega
  have hhi' : s.stkTop - 1 ≤ s.cfg.stackTopInit := by omega
  rw [h.push_eq hroom]
  exact ⟨h.running, h.idle, h.config, ⟨hb, hlo', hhi'⟩, cellWrite_wf h.canonical _ _⟩

/-- Words that stand at `a` and upward depend on the cells from `a` upward alone. -/
theorem HoldsWords.congr {a : Int} {ws : List Int} (h : HoldsWords s a ws) (hcfg : t.cfg = s.cfg)
    (hcell : ∀ b, a ≤ b → t.cell b = s.cell b) : HoldsWords t a ws := by
  induction ws generalizing a with
  | nil => trivial
  | cons w ws ih =>
    obtain ⟨ha, hw, hrest⟩ := h
    exact ⟨hcfg ▸ ha, (hcell a le_rfl).trans hw, ih hrest fun b hb => hcell b (by omega)⟩

/-- R51: a push puts its value under the Words that stand at Top. -/
theorem StackReady.push_holdsWords (h : StackReady s) (hroom : s.stkBot < s.stkTop) {ws : List Int}
    (hws : HoldsWords s s.stkTop ws) (v : Int) :
    HoldsWords (Machine.push v s) (s.stkTop - 1) (v :: ws) := by
  have ha := h.push_address hroom
  rw [h.push_eq hroom]
  refine ⟨ha, cell_writeCell_same (s := { s with stkTop := s.stkTop - 1 }) h.canonical ha v, ?_⟩
  rw [Int.sub_add_cancel]
  exact hws.congr rfl fun b hb => cell_writeCell_other (s := { s with stkTop := s.stkTop - 1 }) ha (by omega) v

/-- R53, the pushes: Top is lowered by as many, and the values stand there in reverse, above them what stood there. -/
theorem StackReady.pushAll (h : StackReady s) {vs ws : List Int} (hroom : (vs.length : Int) ≤ s.stkTop - s.stkBot)
    (hws : HoldsWords s s.stkTop ws) :
    StackReady (pushAll vs s) ∧ (pushAll vs s).cfg = s.cfg ∧ (pushAll vs s).stkTop = s.stkTop - vs.length ∧
      HoldsWords (pushAll vs s) (s.stkTop - vs.length) (vs.reverse ++ ws) := by
  induction vs generalizing s ws with
  | nil => simpa [Machine.pushAll] using ⟨h, hws⟩
  | cons v vs ih =>
    rw [List.length_cons, Nat.cast_succ] at hroom
    have hlt : s.stkBot < s.stkTop := by omega
    have hbot : (Machine.push v s).stkBot = s.stkBot := by rw [h.push_eq hlt]; rfl
    have htop : (Machine.push v s).stkTop = s.stkTop - 1 := by rw [h.push_eq hlt]; rfl
    have hcfg : (Machine.push v s).cfg = s.cfg := by rw [h.push_eq hlt]; rfl
    have hlen : s.stkTop - ((v :: vs).length : Int) = (Machine.push v s).stkTop - vs.length := by
      rw [htop, List.length_cons]; omega
    rw [hlen, List.reverse_cons, List.append_assoc, List.singleton_append, ← hcfg]
    exact ih (h.push hlt v) (by omega) (htop ▸ h.push_holdsWords hlt hws v)

/-- R52 at an existing cell. -/
theorem pop_of_valid (hr : s.run = .running) (hne : s.stkTop ≠ s.cfg.stackTopInit) (ha : ValidAddress s.cfg s.stkTop) :
    pop s = { s with ext := s.cell s.stkTop, stkTop := s.stkTop + 1 } := by
  rw [pop, runMicro_cons hr, microStep_stkCheckNotEmpty, stkCheckNotEmptyStep_nonempty hne, runMicro_cons hr,
    microStep_read_stkTop, runMicro_memRead_valid (by exact hr) (by exact ha), runMicro_cons (by exact hr)]
  rfl

/-- R53, the pops: they answer the Words that stand at Top, from Top upward, and raise Top by as many. -/
theorem popAll_of_holdsWords {ws : List Int} (hr : s.run = .running) (hws : HoldsWords s s.stkTop ws)
    (hlen : s.stkTop + ws.length ≤ s.cfg.stackTopInit) :
    (popAll ws.length s).1 = ws ∧ (popAll ws.length s).2.stkTop = s.stkTop + ws.length ∧
      (popAll ws.length s).2.run = .running := by
  induction ws generalizing s with
  | nil => simpa [popAll] using hr
  | cons w ws ih =>
    obtain ⟨ha, hw, hrest⟩ := hws
    rw [List.length_cons, Nat.cast_succ] at hlen
    have hpop := pop_of_valid hr (by omega) ha
    obtain ⟨hvalues, htop, hrun⟩ := ih (s := pop s) (by rw [hpop]; exact hr)
      (by rw [hpop]; exact hrest.congr rfl fun _ _ => rfl) (by rw [hpop]; simp only; omega)
    refine ⟨?_, ?_, hrun⟩
    · rw [List.length_cons, popAll, hvalues, hpop, hw]
    · rw [List.length_cons, popAll, htop, hpop, Nat.cast_succ]
      simp only
      omega

/-- Settles O16: the pushes leave the values in reverse at Top, and the pops read from Top. -/
theorem stackRoundTrip : Obligations.StackRoundTrip := by
  intro vs s h hr hroom
  obtain ⟨hready, hcfg, htop, hholds⟩ := (h.stackReady hr).pushAll (ws := []) hroom trivial
  obtain ⟨-, -, hhi⟩ := h.stack
  rw [← htop, List.append_nil] at hholds
  obtain ⟨hvalues, hback, hrun⟩ := popAll_of_holdsWords hready.running hholds
    (by rw [htop, hcfg, List.length_reverse]; omega)
  rw [List.length_reverse] at hvalues hback hrun
  exact ⟨hready.running, htop, hvalues, by omega, hrun⟩

end Sys2Proof.Machine
end

section
/-! # Faults are precise (R188)

The step refines the pseudocode (R9), whose raises discard what was computed; what is left to show is that a step that
the pseudocode completes does not end FAULTED. -/

namespace Sys2Proof.Machine

/-- The pseudocode raises, or ends with the control state `run`. -/
def ArchResult.DoneIn (run : RunState) : ArchResult → Prop
  | .done u => u.run = run
  | .raised _ _ => True

section Rules

variable {t : ArchState} {run : RunState}

theorem archMemRead_doneIn {a : Int} {k : Int → ArchResult} (h : ∀ w, (k w).DoneIn run) :
    (archMemRead t a k).DoneIn run := by
  unfold archMemRead
  split
  · exact h _
  · trivial

theorem archMemWrite_doneIn {a v : Int} {k : ArchState → ArchResult} (h : ∀ m, (k { t with mem := m }).DoneIn run) :
    (archMemWrite t a v k).DoneIn run := by
  unfold archMemWrite
  split
  · exact h _
  · trivial

theorem archRegister_doneIn {id : Int} {k : Nat → ArchResult} (h : ∀ j, (k j).DoneIn run) :
    (archRegister t id k).DoneIn run := by
  unfold archRegister
  split
  · exact h _
  · trivial

theorem archRegPair_doneIn {k : Nat → Nat → ArchResult} (h : ∀ i j, (k i j).DoneIn run) :
    (archRegPair t k).DoneIn run :=
  archMemRead_doneIn fun _ => archRegister_doneIn fun i => archMemRead_doneIn fun _ => archRegister_doneIn (h i)

theorem archCall_doneIn : (archCall t).DoneIn t.run := by
  refine archMemRead_doneIn fun _ => ?_
  split
  · trivial
  · exact archMemWrite_doneIn fun _ => rfl

theorem archRet_doneIn : (archRet t).DoneIn t.run := by
  unfold archRet
  split
  · trivial
  · exact archMemRead_doneIn fun _ => rfl

/-- No rule writes `run`: an instruction that completes leaves the machine as it found it (R117). -/
theorem archInstruction_doneIn {opcode : Nat} {rule : ArchState → ArchResult}
    (h : archInstruction opcode = some rule) (t : ArchState) : (rule t).DoneIn t.run := by
  unfold archInstruction at h
  split at h <;> cases h
  case h_1 | h_2 | h_6 => exact archMemRead_doneIn fun _ => archMemRead_doneIn fun _ => rfl
  case h_3 | h_4 | h_5 | h_8 | h_15 | h_20 | h_21 => exact archMemRead_doneIn fun _ => rfl
  case h_7 => exact archMemRead_doneIn fun _ => archMemWrite_doneIn fun _ => rfl
  case h_9 => rfl
  case h_10 | h_13 | h_14 | h_19 => exact archRegPair_doneIn fun _ _ => rfl
  case h_11 => exact archCall_doneIn
  case h_12 => exact archRet_doneIn
  case h_16 => exact archMemRead_doneIn fun _ => archMemRead_doneIn fun _ => archMemWrite_doneIn fun _ => rfl
  case h_17 | h_18 =>
    exact archMemRead_doneIn fun _ => archRegister_doneIn fun _ => archMemRead_doneIn fun _ =>
      archMemRead_doneIn fun _ => rfl

/-- R117, R185: a step that the pseudocode completes leaves `run` or halts. -/
theorem archStep_doneIn (t : ArchState) : (archStep t).DoneIn t.run ∨ (archStep t).DoneIn .halted := by
  unfold archStep archMemRead
  split
  · simp only
    split
    · split
      · exact .inl (archInstruction_doneIn ‹_› t)
      · exact .inr rfl
    · exact .inr rfl
  · exact .inl trivial

/-- A step of a RUNNING machine that the pseudocode completes does not end FAULTED. -/
theorem run_ne_faulted_of_archStep_done {u : ArchState} (hr : t.run = .running) (h : archStep t = .done u)
    (k : ErrorKind) (v : Int) : u.run ≠ .faulted k v := by
  intro hfault
  rcases h ▸ archStep_doneIn t with hrun | hrun
  · cases hr.symm.trans (hrun.symm.trans hfault)
  · cases hrun.symm.trans hfault

end Rules

/-- Settles O30: what a raise leaves by the refinement (O28), and nothing pending by the invariant (O22). -/
theorem faultsArePrecise : Obligations.FaultsArePrecise := by
  intro s t k v h ht hfault
  obtain ⟨-, hr, -, -⟩ := hostStep_next ht
  have hpend : t.pend = none := (stepKeepsWellFormed s t h ht).pend
  obtain ⟨t', ht', hagrees⟩ := step_agrees h hr
  cases Host.Outcome.next.inj (ht.symm.trans ht')
  cases hresult : archStep s.arch <;> rw [hresult] at hagrees
  case done u =>
    exact absurd ((congrArg ArchState.run hagrees).symm.trans hfault) (run_ne_faulted_of_archStep_done hr hresult k v)
  case raised k' v' =>
    have harch : t.arch = { s.arch with pc := t.pc, run := .faulted k' v' } := hagrees
    exact ⟨congrArg ArchState.x harch, congrArg ArchState.flags harch, congrArg ArchState.stkTop harch,
      congrArg ArchState.mem harch, hpend⟩

end Sys2Proof.Machine
end

section
/-! # The bits of a list of Words, and the Words of bits (R7, R70, R71) -/

namespace Sys2Proof

/-- The low `W` bits of anything above the bits of a Word are that Word. -/
theorem wordOfBits_bitsOfWord_add {W : Nat} (hW : 1 ≤ W) {v : Int} (hv : Fits W v) (k : Nat) :
    wordOfBits W (bitsOfWord W v + 2 ^ W * k) = v := by
  have hmod : 0 ≤ v % ((2 ^ W : Nat) : Int) := Int.emod_nonneg _ (by positivity)
  calc wrap W ((bitsOfWord W v + 2 ^ W * k : Nat) : Int)
      = wrap W (v % ((2 ^ W : Nat) : Int)) := by
        rw [Nat.cast_add, bitsOfWord, Int.toNat_of_nonneg hmod, Nat.cast_mul, wrap, Int.add_mul_bmod_self_left, wrap]
    _ = wrap W v := Int.emod_bmod v _
    _ = v := wrap_of_fits hW hv

theorem bitsOfWord_lt (W : Nat) (v : Int) : bitsOfWord W v < 2 ^ W := by
  have hpos : (0 : Int) < ((2 ^ W : Nat) : Int) := by positivity
  have hlo := Int.emod_nonneg v hpos.ne'
  have hhi := Int.emod_lt_of_pos v hpos
  unfold bitsOfWord
  omega

theorem bitsOfWord_wordOfBits (W n : Nat) : bitsOfWord W (wordOfBits W n) = n % 2 ^ W := by
  rw [bitsOfWord, wordOfBits, wrap_emod, ← Int.natCast_emod, Int.toNat_natCast]

theorem bitsOfWords_lt (W : Nat) (ws : List Int) : bitsOfWords W ws < 2 ^ (W * ws.length) := by
  induction ws with
  | nil => simp [bitsOfWords]
  | cons v vs ih =>
    calc bitsOfWord W v + 2 ^ W * bitsOfWords W vs
        < 2 ^ W * (bitsOfWords W vs + 1) := by
          rw [mul_add_one]
          have := bitsOfWord_lt W v
          omega
      _ ≤ 2 ^ W * 2 ^ (W * vs.length) := Nat.mul_le_mul_left _ ih
      _ = 2 ^ (W * (vs.length + 1)) := by ring

theorem wordsOfBits_length (W count n : Nat) : (wordsOfBits W count n).length = count := by
  induction count generalizing n with
  | zero => rfl
  | succ count ih => rw [wordsOfBits, List.length_cons, ih]

theorem wordsOfBits_fits {W : Nat} (hW : 1 ≤ W) (count n : Nat) : ∀ v ∈ wordsOfBits W count n, Fits W v := by
  induction count generalizing n with
  | zero => exact List.forall_mem_nil _
  | succ count ih => exact List.forall_mem_cons.mpr ⟨wrap_fits hW _, ih _⟩

theorem wordsOfBits_add (W j k n : Nat) :
    wordsOfBits W (j + k) n = wordsOfBits W j n ++ wordsOfBits W k (n / 2 ^ (W * j)) := by
  induction j generalizing n with
  | zero => simp [wordsOfBits]
  | succ j ih =>
    have hdiv : n / 2 ^ W / 2 ^ (W * j) = n / 2 ^ (W * (j + 1)) := by
      rw [Nat.div_div_eq_div_mul, ← pow_add, mul_add_one, add_comm W]
    rw [Nat.add_right_comm, wordsOfBits, ih, hdiv, wordsOfBits, List.cons_append]

theorem wordsOfBits_bitsOfWords {W : Nat} (hW : 1 ≤ W) {ws : List Int} (h : ∀ v ∈ ws, Fits W v) :
    wordsOfBits W ws.length (bitsOfWords W ws) = ws := by
  induction ws with
  | nil => rfl
  | cons v vs ih =>
    obtain ⟨hv, hvs⟩ := List.forall_mem_cons.mp h
    have hrest : (bitsOfWord W v + 2 ^ W * bitsOfWords W vs) / 2 ^ W = bitsOfWords W vs := by
      rw [Nat.add_mul_div_left _ _ (Nat.two_pow_pos W), Nat.div_eq_of_lt (bitsOfWord_lt W v), Nat.zero_add]
    rw [List.length_cons, bitsOfWords, wordsOfBits, wordOfBits_bitsOfWord_add hW hv, hrest, ih hvs]

theorem bitsOfWords_wordsOfBits (W count n : Nat) :
    bitsOfWords W (wordsOfBits W count n) = n % 2 ^ (W * count) := by
  induction count generalizing n with
  | zero => simp [wordsOfBits, bitsOfWords, Nat.mod_one]
  | succ count ih =>
    rw [wordsOfBits, bitsOfWords, bitsOfWord_wordOfBits, ih, ← Nat.mod_mul, ← pow_add, mul_add_one, add_comm W]

end Sys2Proof
end

section
/-! # Decoding and encoding are inverse, over Words and over bits (R70 to R79) -/

namespace Sys2Proof

/-- The shape of `Sys2Proof.Laws`, gathered over the instruction set. -/
theorem encodedShape (i : Instr) : Laws.EncodedShape.Statement i := by
  cases i with
  | add a => exact Laws.EncodedShape.add a
  | sub a => exact Laws.EncodedShape.sub a
  | jmp a => exact Laws.EncodedShape.jmp a
  | jz a => exact Laws.EncodedShape.jz a
  | jn a => exact Laws.EncodedShape.jn a
  | read a => exact Laws.EncodedShape.read a
  | store a => exact Laws.EncodedShape.store a
  | ldi v => exact Laws.EncodedShape.ldi v
  | inc => exact Laws.EncodedShape.inc
  | moveregreg a b => exact Laws.EncodedShape.moveregreg a b
  | call a => exact Laws.EncodedShape.call a
  | ret => exact Laws.EncodedShape.ret
  | addregreg a b => exact Laws.EncodedShape.addregreg a b
  | subregreg a b => exact Laws.EncodedShape.subregreg a b
  | jnz a => exact Laws.EncodedShape.jnz a
  | incmem a => exact Laws.EncodedShape.incmem a
  | addregmem r a => exact Laws.EncodedShape.addregmem r a
  | subregmem r a => exact Laws.EncodedShape.subregmem r a
  | cmp a b => exact Laws.EncodedShape.cmp a b
  | je a => exact Laws.EncodedShape.je a
  | jne a => exact Laws.EncodedShape.jne a

theorem encode_length (i : Instr) : (encode i).length = i.format.length := (encodedShape i).1

theorem opcode_le (i : Instr) : i.opcode ≤ 20 := (encodedShape i).2.2.1

theorem decode_encode_append (i : Instr) (rest : List Int) : decode (encode i ++ rest) = .ok (i, rest) :=
  (encodedShape i).2.2.2 rest

theorem operands_length (i : Instr) : i.operands.length = i.format.length - 1 := by
  rw [← encode_length, encode, List.length_cons, Nat.add_sub_cancel]

theorem format_length_le (f : Format) : f.length ≤ maxLength := by
  cases f <;> decide

/-- R72, R75: the opcode alone fixes the length. -/
theorem format_length_eq_ite_opcode (i : Instr) :
    i.format.length = if (i.opcode : Int) = 8 ∨ (i.opcode : Int) = 11 then 1
      else if (i.opcode : Int) = 9 ∨ (i.opcode : Int) = 12 ∨ (i.opcode : Int) = 13 ∨ (i.opcode : Int) = 16 ∨
        (i.opcode : Int) = 17 ∨ (i.opcode : Int) = 18 then 3 else 2 := by
  cases i <;> rfl

/-- R71: an opcode is a Word at every width from 8 up, so well-formedness of the operands is that of all the words. -/
theorem encode_fits_iff {W : Nat} (hW : 8 ≤ W) {i : Instr} : (∀ v ∈ encode i, Fits W v) ↔ i.WF W := by
  have hop := opcode_le i
  have hhalf : ((2 ^ 7 : Nat) : Int) ≤ wordHalf W :=
    Int.ofNat_le.mpr (Nat.pow_le_pow_right (by decide) (by omega))
  rw [encode, List.forall_mem_cons, and_iff_right ⟨by omega, by omega⟩]

/-- R71, R77: every Word but 0 to 20 is rejected by its value, whatever follows it. -/
theorem decode_of_not_opcode {op : Int} (h : ¬ (0 ≤ op ∧ op ≤ 20)) (ws : List Int) :
    decode (op :: ws) = .error (.unrecognizedOpcode op) := by
  cases op with
  | negSucc n => rfl
  | ofNat n =>
    have hnone : makerOf n = none := makerOf_eq_none.mpr (by rw [Int.ofNat_eq_natCast] at h; omega)
    simp [decode, hnone]

/-- R75, R79: an opcode Word followed by two Words decodes to an instruction of that opcode, which takes as many of
them as its format says. -/
theorem exists_decode_of_opcode {op : Int} (h : 0 ≤ op ∧ op ≤ 20) (a b : Int) :
    ∃ i, (i.opcode : Int) = op ∧ decode [op, a, b] = .ok (i, [a, b].drop (i.format.length - 1)) := by
  cases hd : decode [op, a, b] with
  | error e => exact absurd h (not_opcode_of_decode_error hd)
  | ok p =>
    obtain ⟨i, rest⟩ := p
    obtain ⟨hop, hwords⟩ := List.cons.inj (encode_append_of_decode hd)
    have hrest : [a, b].drop (i.format.length - 1) = rest := by
      rw [← operands_length, hwords, List.append_eq, List.drop_left]
    exact ⟨i, hop.symm, by rw [hrest]⟩

/-- Decoding bits reads the Words they stand for. -/
theorem decodeBits_eq_some_iff {W nbits w : Nat} {i : Instr} :
    decodeBits W nbits w = some i ↔
      ∃ rest, decode (wordsOfBits W maxLength (w % 2 ^ nbits)) = .ok (i, rest) := by
  unfold decodeBits
  cases decode (wordsOfBits W maxLength (w % 2 ^ nbits)) with
  | ok p => simp [Prod.ext_iff]
  | error e => simp

/-- Settles O1: the bits give back the words of the encoding, followed by blanks, and those decode. -/
theorem decodeOfEncodedBits : Obligations.DecodeOfEncodedBits := by
  intro W i hW hi
  obtain ⟨k, hk⟩ := Nat.exists_eq_add_of_le (format_length_le i.format)
  have hwords : wordsOfBits W (encode i).length (encodeBits W i) = encode i :=
    wordsOfBits_bitsOfWords (by omega) ((encode_fits_iff hW).mpr hi)
  have hlt : encodeBits W i < 2 ^ (W * (encode i).length) := bitsOfWords_lt W (encode i)
  rw [decodeBits_eq_some_iff, hk, ← encode_length, Nat.mod_eq_of_lt hlt, wordsOfBits_add, hwords]
  exact ⟨_, decode_encode_append i _⟩

/-- Settles O2: the decoded words begin with the encoding, which is therefore the words of the low bits. -/
theorem encodeOfDecodedBits : Obligations.EncodeOfDecodedBits := by
  intro W w i hW hw hd
  obtain ⟨k, hk⟩ := Nat.exists_eq_add_of_le (format_length_le i.format)
  obtain ⟨rest, hrest⟩ := decodeBits_eq_some_iff.mp hd
  rw [Nat.mod_eq_of_lt hw, hk, wordsOfBits_add] at hrest
  have hencode : wordsOfBits W i.format.length w = encode i :=
    List.append_inj_left (encode_append_of_decode hrest) (by rw [wordsOfBits_length, encode_length])
  constructor
  · exact (encode_fits_iff hW).mp (hencode ▸ wordsOfBits_fits (by omega) _ _)
  · rw [encodeBits, ← hencode, bitsOfWords_wordsOfBits]

/-- Settles O3. -/
theorem opcodeMapIsComplete : Obligations.OpcodeMapIsComplete := by
  intro op a b
  constructor
  · intro h
    obtain ⟨i, hop, hd⟩ := exists_decode_of_opcode h a b
    exact ⟨i, hop, hd, hop ▸ format_length_eq_ite_opcode i⟩
  · exact fun h => decode_of_not_opcode h [a, b]

/-- Settles O4: each sequence is the encoding of its instruction, and -1 is no opcode. -/
theorem sampleWordsDecode : Obligations.SampleWordsDecode := by
  have hbits : encodeBits tableWidth (.ldi (-5)) = 2 ^ 32 * (2 ^ 32 - 5) + 7 := by decide
  have htable := decodeOfEncodedBits tableWidth (.ldi (-5)) (by decide) (by decide)
  rw [hbits] at htable
  exact ⟨decode_encode_append (.add 50) [], decode_encode_append (.jne 40) [], decode_encode_append (.ldi (-5)) [],
    decode_encode_append (.moveregreg 1 2) [], decode_encode_append (.subregmem 3 50) [],
    decode_encode_append .ret [], htable, decode_of_not_opcode (by decide) []⟩

end Sys2Proof
end

section
/-! # The clean halt (R77, R111, R185) -/

namespace Sys2Proof.Machine

/-- R117: a halted machine takes no step. -/
theorem step_of_halted {s : State} (hc : s.cfg.WF) (hr : s.run = .halted) : step s = .fault .halted := by
  simp only [step, hostStep, if_pos hc, hr]

/-- R111, R185: the dispatch of a Word that is no opcode halts. -/
theorem dispatch_of_not_opcode {s : State} (h : ¬ (0 ≤ s.iba ∧ s.iba ≤ 20)) : dispatch s = .next s.halt := by
  simp only [dispatch, fetchedWords, decode_of_not_opcode h]

/-- Settles O24: FETCH and decode put the Word on `IR` and the buses, and the dispatch halts. -/
theorem stepHaltsOnUnrecognizedOpcode : Obligations.StepHaltsOnUnrecognizedOpcode := by
  intro s h hr hp hop
  refine ⟨_, ?_, rfl, step_of_halted h.1 rfl⟩
  rw [step_of_valid h hr hp]
  exact dispatch_of_not_opcode hop

end Sys2Proof.Machine
end

section
/-! # Corner cases of wrap-around (R7, R103) -/

namespace Sys2Proof

/-- R7: the Word congruent to `z` is the only one. -/
theorem wrap_eq_of_fits {W : Nat} (hW : 1 ≤ W) {z v : Int} (hv : Fits W v) (k : Int)
    (hz : z = v + 2 * wordHalf W * k) : wrap W z = v := by
  rw [hz, two_mul_wordHalf hW, wrap, Int.add_mul_bmod_self_left]
  exact wrap_of_fits hW hv

/-- R103: Words whose difference wraps to 0 are equal. -/
theorem eq_of_wrap_sub_eq_zero {W : Nat} (hW : 1 ≤ W) {a b : Int} (ha : Fits W a) (hb : Fits W b)
    (h : wrap W (a - b) = 0) : a = b :=
  calc a = wrap W (b + (a - b)) := by rw [add_sub_cancel, wrap_of_fits hW ha]
    _ = wrap W (b + wrap W (a - b)) := (wrap_add_right W b _).symm
    _ = b := by rw [h, Int.add_zero, wrap_of_fits hW hb]

/-- Settles O9: each overflow is off by one `2^W` from the Word it wraps to. -/
theorem arithmeticCornerCases : Obligations.ArithmeticCornerCases := by
  intro W hW
  have hW1 : 1 ≤ W := by omega
  have hpow : (2 : Int) ^ (W - 1) = wordHalf W := by simp [wordHalf]
  have hpos := wordHalf_pos W
  have hself : ∀ a : Int, wrap W (a - a) = 0 := fun a => by
    rw [Int.sub_self]
    exact wrap_of_fits hW1 ⟨by omega, hpos⟩
  rw [hpow]
  refine ⟨?maxPlusOne, ?minMinusOne, ?negateMin, hself, fun a b ha hb => ?equal⟩
  case maxPlusOne | negateMin => exact wrap_eq_of_fits hW1 ⟨by omega, by omega⟩ 1 (by ring)
  case minMinusOne => exact wrap_eq_of_fits hW1 ⟨by omega, by omega⟩ (-1) (by ring)
  case equal => exact ⟨eq_of_wrap_sub_eq_zero hW1 ha hb, fun hab => hab ▸ hself a⟩

end Sys2Proof
end

section
/-! # The ALU, the Demux, the status memory and the stack pointer (R102 to R107, R113 to R115, R118) -/

namespace Sys2Proof.Machine

variable (s : State)

/-- Settles O8. -/
theorem aluOperations : Obligations.AluOperations := fun _ => ⟨rfl, rfl, rfl, rfl⟩

/-- Settles O10: the two transfers, and the two sides of the range check. -/
theorem demuxSelectsRegister : Obligations.DemuxSelectsRegister := fun s =>
  ⟨microStep_demuxInternalRead s, microStep_demuxInternalStore s, demuxSetValueStep_valid, demuxSetValueStep_invalid⟩

/-- R107: the select input is `FLAGS` or a constant, and selecting writes neither. -/
theorem selectBit_smSelect (b c : SelectInput) : selectBit (microStep (.smSelect c) s) b = selectBit s b := by
  cases b <;> rfl

/-- Settles O11: the second selection sees the same select bit and the same cells. -/
theorem statusMemorySelects : Obligations.StatusMemorySelects := by
  refine fun s => ⟨microStep_smStoreIn_zero s, microStep_smStoreIn_one s, rfl, rfl, fun i => rfl, fun b c => ?_⟩
  rw [microStep_smSelect (microStep _ s), selectBit_smSelect]
  rfl

/-- Settles O13: the two sides of each check. -/
theorem stackPointerMicroOps : Obligations.StackPointerMicroOps := fun s =>
  ⟨stkDecTopStep_full, stkDecTopStep_room, stkCheckNotEmptyStep_empty, stkCheckNotEmptyStep_nonempty,
    microStep_stkIncTop s⟩

/-- R26: the control store has no microprogram past opcode 20. -/
theorem microprogram_eq_none {opcode : Nat} (h : 21 ≤ opcode) : microprogram opcode = none := by
  obtain ⟨k, rfl⟩ := Nat.exists_eq_add_of_le' h
  rfl

/-- Settles O60: the sequences and the 21 microprograms counted, and nothing past FETCH and decode for a halt. -/
theorem microOpCounts : Obligations.MicroOpCounts := by
  refine ⟨rfl, rfl, rfl, rfl, rfl, fun opcode h => ?_⟩
  rw [microOpCount, microprogram_eq_none h]
  rfl

end Sys2Proof.Machine
end

section
/-! # FETCH, the step of a decoded instruction, and the states without a step (R110, R111, R117) -/

namespace Sys2Proof.Machine

variable {s : State}

/-- R110 at a valid `PC`. -/
theorem runMicro_fetchSequence_valid (hr : s.run = .running) (hp : ValidAddress s.cfg s.pc) :
    runMicro fetchSequence s = { s with ir := s.cell s.pc, ext := s.cell s.pc } := by
  rw [fetchSequence, runMicro_cons hr, microStep_read_pc, runMicro_memRead_valid (by exact hr) (by exact hp),
    runMicro_cons (by exact hr), microStep_store_ir, runMicro_nil]
  rfl

/-- R110 at an invalid `PC`: the read raises, so `IR` is not stored. -/
theorem runMicro_fetchSequence_invalid (hr : s.run = .running) (hp : ¬ ValidAddress s.cfg s.pc) :
    runMicro fetchSequence s = { s with ext := s.pc }.raise .outOfBoundsAddress s.pc := by
  rw [fetchSequence, runMicro_cons hr, microStep_read_pc, runMicro_memRead_invalid (by exact hr) (by exact hp)]

/-- Settles O25: the two outcomes of the read of `PC`. -/
theorem fetchReadsOpcodeOrFaults : Obligations.FetchReadsOpcodeOrFaults :=
  ⟨rfl, fun _ hr => ⟨runMicro_fetchSequence_valid hr, fun hp =>
    ⟨runMicro_fetchSequence_invalid hr hp, fun h => step_of_invalid h hr hp⟩⟩⟩

/-- R111: the dispatch of words that decode. -/
theorem dispatch_of_decode {i : Instr} {rest : List Int} (h : decode (fetchedWords s) = .ok (i, rest)) :
    dispatch s = exec i s := by
  simp only [dispatch, h]

/-- R70: the words of an instruction that stand at `PC` are the first of the three that decoding reads. -/
theorem HoldsAtPc.words {i : Instr} (h : HoldsAtPc s i) :
    ∃ rest, [s.cell s.pc, s.cell (s.pc + 1), s.cell (s.pc + 2)] = encode i ++ rest := by
  obtain ⟨-, hop, hwords⟩ := h
  have hlen : i.operands.length ≤ 2 := (operands_length i).trans_le (Nat.sub_le_sub_right (format_length_le _) 1)
  rw [encode, hop]
  generalize i.operands = ws at hwords hlen
  match ws, hwords with
  | [], _ => exact ⟨_, rfl⟩
  | [a], ⟨_, ha, _⟩ => exact ⟨[_], by rw [ha]; rfl⟩
  | [a, b], ⟨_, ha, _, hb, _⟩ => exact ⟨[], by rw [ha, ← pc_add_two, hb]; rfl⟩
  | _ :: _ :: _ :: _, _ => simp at hlen

/-- Settles O23: FETCH and decode put the opcode on `IR` and the buses, and decoding reads the words at `PC`, which in
the second clause begin with the encoding of `i`. -/
theorem stepRunsDecodedInstruction : Obligations.StepRunsDecodedInstruction := by
  intro s h hr
  have hdecoded : ∀ (i : Instr) (rest : List Int), ValidAddress s.cfg s.pc →
      decode [s.cell s.pc, s.cell (s.pc + 1), s.cell (s.pc + 2)] = .ok (i, rest) →
      step s = exec i { s with ext := s.cell s.pc, ir := s.cell s.pc, iba := s.cell s.pc } := fun i rest hp hd =>
    (step_of_valid h hr hp).trans (dispatch_of_decode hd)
  refine ⟨hdecoded, fun i hholds => ?_⟩
  obtain ⟨rest, hwords⟩ := hholds.words
  obtain ⟨hp, hop, -⟩ := hholds
  rw [← hop]
  exact hdecoded i rest hp (hwords ▸ decode_encode_append i rest)

/-- R180, R189: a faulted machine takes no step. -/
theorem step_of_faulted {k : ErrorKind} {v : Int} (hc : s.cfg.WF) (hr : s.run = .faulted k v) :
    step s = .fault (.faulted k v) := by
  simp only [step, hostStep, if_pos hc, hr]

/-- U2: a store pending at an instruction boundary is refused. -/
theorem step_of_pending (hc : s.cfg.WF) (hr : s.run = .running) (hp : s.pend ≠ none) :
    step s = .refused .pendingStoreAtBoundary := by
  simp only [step, hostStep, if_pos hc, hr, if_neg hp]

/-- Settles O26. -/
theorem noStepWhenEnded : Obligations.NoStepWhenEnded := fun _ =>
  ⟨step_of_halted, fun _ _ => step_of_faulted, step_of_pending, fun hc => if_neg hc⟩

end Sys2Proof.Machine
end

section
/-! # No step reads residue (R112)

Two runs of one program from states that agree on everything but residue stay in agreement as long as every residue
cell is written before it is read. Which cells a micro-operation reads and writes is a table; that each microprogram
writes before it reads is then a check that evaluates. -/

namespace Sys2Proof.Machine

/-- The elements that R112 calls residue: the buses, the ALU cells, the status memory and `sel`. -/
inductive ResidueCell where
  | ext | iba | ibb | acc0 | acc1 | sm0 | sm1 | sel
deriving DecidableEq

/-- What a residue cell holds; `sel` as the integer of its index. -/
def State.residue (s : State) : ResidueCell → Int
  | .ext => s.ext
  | .iba => s.iba
  | .ibb => s.ibb
  | .acc0 => s.acc0
  | .acc1 => s.acc1
  | .sm0 => s.sm0
  | .sm1 => s.sm1
  | .sel => s.sel

/-- A residue cell written; `sel` as `DEMUX.setValue` writes it (R104); `residue_setResidue`. -/
def State.setResidue (s : State) : ResidueCell → Int → State
  | .ext, v => { s with ext := v }
  | .iba, v => { s with iba := v }
  | .ibb, v => { s with ibb := v }
  | .acc0, v => { s with acc0 := v }
  | .acc1, v => { s with acc1 := v }
  | .sm0, v => { s with sm0 := v }
  | .sm1, v => { s with sm1 := v }
  | .sel, v => { s with sel := v.toNat }

/-- The ALU cell that a slot names (R101). -/
def Slot.accCell : Slot → ResidueCell
  | .zero => .acc0
  | .one => .acc1

/-- The status-memory cell that a slot names (R107). -/
def Slot.smCell : Slot → ResidueCell
  | .zero => .sm0
  | .one => .sm1

/-- The residue cells whose contents a micro-operation uses; `AgreeOn.microStep`. -/
def MicroOp.readsResidue : MicroOp → List ResidueCell
  | .store _ | .demuxSetValue | .smStoreIn _ | .memRead | .memStore | .operandRead _ => [.ext]
  | .aluStoreOperand _ => [.iba]
  | .internalStore _ | .aluInternalStoreOperand _ | .flagsUpdate => [.ibb]
  | .aluReadOperand k | .aluInternalReadOperand k => [k.accCell]
  | .alu .add | .alu .sub | .alu .compare => [.acc0, .acc1]
  | .alu .inc => [.acc1]
  | .demuxInternalRead => [.sel]
  | .demuxInternalStore => [.sel, .ibb]
  | .smSelect (.flag _) => [.sm0, .sm1]
  | .smSelect (.const b) => [if b then .sm1 else .sm0]
  | .read _ | .internalRead _ | .flagsGetBit _ | .flagsSetBit _ _ | .stkDecTop | .stkCheckNotEmpty | .stkIncTop => []

/-- The residue cells that a micro-operation writes unless it raises; `AgreeOn.microStep`. -/
def MicroOp.writesResidue : MicroOp → List ResidueCell
  | .read _ | .smSelect _ | .memRead | .operandRead _ => [.ext]
  | .internalRead _ | .aluReadOperand _ | .demuxInternalRead => [.iba]
  | .aluInternalReadOperand _ => [.ibb]
  | .aluStoreOperand k | .aluInternalStoreOperand k => [k.accCell]
  | .alu _ => [.acc1]
  | .demuxSetValue => [.sel]
  | .smStoreIn k => [k.smCell]
  | .store _ | .internalStore _ | .flagsGetBit _ | .flagsSetBit _ _ | .demuxInternalStore | .flagsUpdate | .memStore
  | .stkDecTop | .stkCheckNotEmpty | .stkIncTop => []

/-- With the cells of `known` written, the program reads no residue cell that it has not written before;
`AgreeOn.runMicro`. -/
def readsOnlyKnown : List ResidueCell → List MicroOp → Bool
  | _, [] => true
  | known, op :: ops =>
    op.readsResidue.all known.contains && readsOnlyKnown (op.writesResidue ++ known) ops

/-- Two states agree on all that is no residue, and while they run on the residue cells of `known` (an ended machine
reads nothing more). -/
structure AgreeOn (known : List ResidueCell) (s t : State) : Prop where
  arch : s.arch = t.arch
  ir : s.ir = t.ir
  pend : s.pend = t.pend
  residue : s.run = .running → ∀ c ∈ known, s.residue c = t.residue c

section Rules

variable {known : List ResidueCell} {s t : State}

theorem AgreeOn.cfg (h : AgreeOn known s t) : s.cfg = t.cfg := congrArg ArchState.cfg h.arch

theorem AgreeOn.pc (h : AgreeOn known s t) : s.pc = t.pc := congrArg ArchState.pc h.arch

theorem AgreeOn.flags (h : AgreeOn known s t) : s.flags = t.flags := congrArg ArchState.flags h.arch

theorem AgreeOn.stkTop (h : AgreeOn known s t) : s.stkTop = t.stkTop := congrArg ArchState.stkTop h.arch

theorem AgreeOn.stkBot (h : AgreeOn known s t) : s.stkBot = t.stkBot := congrArg ArchState.stkBot h.arch

theorem AgreeOn.run (h : AgreeOn known s t) : s.run = t.run := congrArg ArchState.run h.arch

theorem AgreeOn.reg (h : AgreeOn known s t) (i : Nat) : s.reg i = t.reg i := congrArg (ArchState.reg · i) h.arch

theorem AgreeOn.cell (h : AgreeOn known s t) (a : Int) : s.cell a = t.cell a := by
  rw [State.cell, State.cell, h.cfg, show s.mem = t.mem from congrArg ArchState.mem h.arch]

/-! ### Changing both states alike -/

/-- What a residue write leaves of the residue depends on the Word written and the other cells alone. -/
theorem residue_setResidue (s : State) (c d : ResidueCell) (v : Int) :
    (s.setResidue c v).residue d = if d = c then (if c = .sel then (v.toNat : Int) else v) else s.residue d := by
  cases c <;> cases d <;> rfl

theorem setResidue_visible (s : State) (c : ResidueCell) (v : Int) :
    (s.setResidue c v).arch = s.arch ∧ (s.setResidue c v).ir = s.ir ∧ (s.setResidue c v).pend = s.pend := by
  cases c <;> exact ⟨rfl, rfl, rfl⟩

/-- Both states take the same Word into a residue cell, which is then known. -/
theorem AgreeOn.setResidue (h : AgreeOn known s t) (c : ResidueCell) {v w : Int} (hv : v = w) :
    AgreeOn (c :: known) (s.setResidue c v) (t.setResidue c w) := by
  subst hv
  obtain ⟨hsarch, hsir, hspend⟩ := setResidue_visible s c v
  obtain ⟨htarch, htir, htpend⟩ := setResidue_visible t c v
  refine ⟨by rw [hsarch, htarch, h.arch], by rw [hsir, htir, h.ir], by rw [hspend, htpend, h.pend], fun hr d hd => ?_⟩
  have hrun : s.run = .running := (congrArg ArchState.run hsarch).symm.trans hr
  rw [residue_setResidue, residue_setResidue]
  split_ifs with hdc
  · rfl
  · rfl
  · exact h.residue hrun d ((List.mem_cons.mp hd).resolve_left hdc)

/-- Both states raise the same error; no residue is read after it. -/
theorem AgreeOn.raise (h : AgreeOn known s t) (known' : List ResidueCell) (k : ErrorKind) {v w : Int} (hv : v = w) :
    AgreeOn known' (s.raise k v) (t.raise k w) :=
  ⟨congrArg₂ (fun (a : ArchState) v => { a with run := .faulted k v }) h.arch hv, h.ir, h.pend, nofun⟩

theorem AgreeOn.setReg (h : AgreeOn known s t) {i j : Nat} (hi : i = j) {v w : Int} (hv : v = w) :
    AgreeOn known (s.setReg i v) (t.setReg j w) := by
  subst hi hv
  exact ⟨congrArg (ArchState.setReg · i v) h.arch, h.ir, h.pend, h.residue⟩

theorem AgreeOn.setPc (h : AgreeOn known s t) {v w : Int} (hv : v = w) :
    AgreeOn known { s with pc := v } { t with pc := w } :=
  ⟨congrArg₂ (fun (a : ArchState) v => { a with pc := v }) h.arch hv, h.ir, h.pend, h.residue⟩

theorem AgreeOn.setFlags (h : AgreeOn known s t) {v w : Int} (hv : v = w) :
    AgreeOn known { s with flags := v } { t with flags := w } :=
  ⟨congrArg₂ (fun (a : ArchState) v => { a with flags := v }) h.arch hv, h.ir, h.pend, h.residue⟩

theorem AgreeOn.setStkTop (h : AgreeOn known s t) {v w : Int} (hv : v = w) :
    AgreeOn known { s with stkTop := v } { t with stkTop := w } :=
  ⟨congrArg₂ (fun (a : ArchState) v => { a with stkTop := v }) h.arch hv, h.ir, h.pend, h.residue⟩

/-! ### The micro-operations whose effect depends on a check -/

theorem AgreeOn.memReadStep (h : AgreeOn known s t) (hext : s.ext = t.ext) {v w : Int} (hv : v = w) :
    AgreeOn (.ext :: known) (memReadStep v s) (memReadStep w t) := by
  by_cases ha : ValidAddress s.cfg s.ext
  · rw [memReadStep_valid ha, memReadStep_valid (h.cfg ▸ hext ▸ ha)]
    exact h.setResidue .ext hv
  · rw [memReadStep_invalid ha, memReadStep_invalid (h.cfg ▸ hext ▸ ha)]
    exact h.raise _ _ hext

theorem AgreeOn.demuxSetValueStep (h : AgreeOn known s t) (hext : s.ext = t.ext) :
    AgreeOn (.sel :: known) (demuxSetValueStep s) (demuxSetValueStep t) := by
  by_cases hid : ValidRegister s.cfg s.ext
  · rw [demuxSetValueStep_valid hid, demuxSetValueStep_valid (h.cfg ▸ hext ▸ hid)]
    exact h.setResidue .sel hext
  · rw [demuxSetValueStep_invalid hid, demuxSetValueStep_invalid (h.cfg ▸ hext ▸ hid)]
    exact h.raise _ _ hext

theorem AgreeOn.memStoreStep (h : AgreeOn known s t) (hext : s.ext = t.ext) :
    AgreeOn known (memStoreStep s) (memStoreStep t) := by
  have hpend := h.pend
  cases hp : s.pend with
  | none =>
    rw [hp] at hpend
    by_cases ha : ValidAddress s.cfg s.ext
    · rw [memStoreStep_address hp ha, memStoreStep_address hpend.symm (h.cfg ▸ hext ▸ ha)]
      exact ⟨h.arch, h.ir, congrArg some hext, h.residue⟩
    · rw [memStoreStep_invalid hp ha, memStoreStep_invalid hpend.symm (h.cfg ▸ hext ▸ ha)]
      exact h.raise _ _ hext
  | some a =>
    rw [hp] at hpend
    rw [memStoreStep_data hp, memStoreStep_data hpend.symm]
    exact ⟨congrArg₂ (fun (u : ArchState) v => { u with mem := cellWrite u.mem a.toNat v }) h.arch hext, h.ir, rfl,
      h.residue⟩

theorem AgreeOn.stkDecTopStep (h : AgreeOn known s t) : AgreeOn known (stkDecTopStep s) (stkDecTopStep t) := by
  by_cases hfull : s.stkTop - 1 < s.stkBot
  · rw [stkDecTopStep_full hfull, stkDecTopStep_full (h.stkTop ▸ h.stkBot ▸ hfull)]
    exact h.raise _ _ h.stkTop
  · rw [stkDecTopStep_room hfull, stkDecTopStep_room (h.stkTop ▸ h.stkBot ▸ hfull)]
    exact h.setStkTop (by rw [h.stkTop])

theorem AgreeOn.stkCheckNotEmptyStep (h : AgreeOn known s t) :
    AgreeOn known (stkCheckNotEmptyStep s) (stkCheckNotEmptyStep t) := by
  by_cases hempty : s.stkTop = s.cfg.stackTopInit
  · rw [stkCheckNotEmptyStep_empty hempty, stkCheckNotEmptyStep_empty (h.stkTop ▸ h.cfg ▸ hempty)]
    exact h.raise _ _ h.stkTop
  · rw [stkCheckNotEmptyStep_nonempty hempty, stkCheckNotEmptyStep_nonempty (h.stkTop ▸ h.cfg ▸ hempty)]
    exact h

/-! ### The access ports -/

theorem AgreeOn.readStep (h : AgreeOn known s t) (r : ReadPort) :
    AgreeOn (.ext :: known) (readStep r s) (readStep r t) := by
  cases r with
  | pc => exact h.setResidue .ext h.pc
  | reg0 => exact h.setResidue .ext (h.reg 0)
  | stkTop => exact h.setResidue .ext h.stkTop

theorem AgreeOn.internalReadStep (h : AgreeOn known s t) (r : InternalReadPort) :
    AgreeOn (.iba :: known) (internalReadStep r s) (internalReadStep r t) := by
  cases r with
  | pc => exact h.setResidue .iba h.pc
  | ir => exact h.setResidue .iba h.ir
  | reg0 => exact h.setResidue .iba (h.reg 0)

theorem AgreeOn.storeStep (h : AgreeOn known s t) (hext : s.ext = t.ext) (r : StorePort) :
    AgreeOn known (storeStep r s) (storeStep r t) := by
  cases r with
  | pc => exact h.setPc hext
  | ir => exact ⟨h.arch, hext, h.pend, h.residue⟩
  | reg0 => exact h.setReg rfl hext

theorem AgreeOn.internalStoreStep (h : AgreeOn known s t) (hibb : s.ibb = t.ibb) (r : InternalStorePort) :
    AgreeOn known (internalStoreStep r s) (internalStoreStep r t) := by
  cases r with
  | pc => exact h.setPc hibb
  | reg0 => exact h.setReg rfl hibb

theorem AgreeOn.setAcc (h : AgreeOn known s t) (k : Slot) {v w : Int} (hv : v = w) :
    AgreeOn (k.accCell :: known) (s.setAcc k v) (t.setAcc k w) := by
  cases k with
  | zero => exact h.setResidue .acc0 hv
  | one => exact h.setResidue .acc1 hv

theorem AgreeOn.smStoreInStep (h : AgreeOn known s t) (hext : s.ext = t.ext) (k : Slot) :
    AgreeOn (k.smCell :: known) (smStoreInStep k s) (smStoreInStep k t) := by
  cases k with
  | zero => exact h.setResidue .sm0 hext
  | one => exact h.setResidue .sm1 hext

theorem residue_accCell (s : State) (k : Slot) : s.residue k.accCell = s.acc k := by
  cases k <;> rfl

/-- The Word that `SM.select` puts on the bus comes from the cells it is said to read. -/
theorem AgreeOn.selected (h : AgreeOn known s t) {b : SelectInput}
    (hreads : ∀ c ∈ (MicroOp.smSelect b).readsResidue, s.residue c = t.residue c) :
    (if selectBit s b then s.sm1 else s.sm0) = if selectBit t b then t.sm1 else t.sm0 := by
  cases b with
  | flag i =>
    rw [show s.sm0 = t.sm0 from hreads .sm0 (by simp [MicroOp.readsResidue]),
      show s.sm1 = t.sm1 from hreads .sm1 (by simp [MicroOp.readsResidue]), selectBit, selectBit, h.flags]
  | const b =>
    cases b with
    | true => exact hreads .sm1 (by simp [MicroOp.readsResidue])
    | false => exact hreads .sm0 (by simp [MicroOp.readsResidue])

/-- The Word that an ALU operation writes comes from the cells it is said to read (R102). -/
theorem AgreeOn.aluResult (h : AgreeOn known s t) {op : AluOp}
    (hreads : ∀ c ∈ (MicroOp.alu op).readsResidue, s.residue c = t.residue c) :
    aluResult s.cfg.W op s.acc0 s.acc1 = aluResult t.cfg.W op t.acc0 t.acc1 := by
  have h1 : s.acc1 = t.acc1 := hreads .acc1 (by cases op <;> simp [MicroOp.readsResidue])
  rw [h.cfg, h1]
  cases op with
  | inc => rfl
  | add | sub | compare =>
    rw [show s.acc0 = t.acc0 from hreads .acc0 (by simp [MicroOp.readsResidue])]

/-! ### Every micro-operation, and programs -/

/-- States that agree on what a micro-operation reads agree after it on what it writes. -/
theorem AgreeOn.microStep (h : AgreeOn known s t) (op : MicroOp)
    (hreads : ∀ c ∈ op.readsResidue, s.residue c = t.residue c) :
    AgreeOn (op.writesResidue ++ known) (microStep op s) (microStep op t) := by
  have honly : ∀ {c}, op.readsResidue = [c] → s.residue c = t.residue c := fun hc => hreads _ (by simp [hc])
  cases op with
  | read r => exact h.readStep r
  | internalRead r => exact h.internalReadStep r
  | store r => exact h.storeStep (honly (c := .ext) rfl) r
  | internalStore r => exact h.internalStoreStep (honly (c := .ibb) rfl) r
  | flagsGetBit i => exact h
  | flagsSetBit i b => exact h.setFlags (congrArg (flagSet · i b) h.flags)
  | flagsUpdate => exact h.setFlags (congrArg₂ flagsAfter h.flags (honly (c := .ibb) rfl))
  | aluStoreOperand k => exact h.setAcc k (honly (c := .iba) rfl)
  | aluInternalStoreOperand k => exact h.setAcc k (honly (c := .ibb) rfl)
  | aluReadOperand k =>
    exact h.setResidue .iba ((residue_accCell s k).symm.trans ((honly rfl).trans (residue_accCell t k)))
  | aluInternalReadOperand k =>
    exact h.setResidue .ibb ((residue_accCell s k).symm.trans ((honly rfl).trans (residue_accCell t k)))
  | alu op => exact h.setResidue .acc1 (h.aluResult hreads)
  | demuxSetValue => exact h.demuxSetValueStep (honly (c := .ext) rfl)
  | demuxInternalRead =>
    have hsel : s.sel = t.sel := Int.ofNat.inj (honly (c := .sel) rfl)
    exact h.setResidue .iba (hsel ▸ h.reg s.sel)
  | demuxInternalStore =>
    have hsel : s.sel = t.sel := Int.ofNat.inj (hreads .sel (by simp [MicroOp.readsResidue]))
    exact h.setReg hsel (hreads .ibb (by simp [MicroOp.readsResidue]))
  | smStoreIn k => exact h.smStoreInStep (honly (c := .ext) rfl) k
  | smSelect b => exact h.setResidue .ext (h.selected hreads)
  | memRead =>
    have hext : s.ext = t.ext := honly (c := .ext) rfl
    exact h.memReadStep hext (hext ▸ h.cell s.ext)
  | memStore => exact h.memStoreStep (honly (c := .ext) rfl)
  | operandRead w => exact h.memReadStep (honly (c := .ext) rfl) rfl
  | stkDecTop => exact h.stkDecTopStep
  | stkCheckNotEmpty => exact h.stkCheckNotEmptyStep
  | stkIncTop => exact h.setStkTop (congrArg (· + 1) h.stkTop)

theorem AgreeOn.forget (h : AgreeOn known s t) : AgreeOn [] s t := ⟨h.arch, h.ir, h.pend, fun _ => nofun⟩

/-- A program that reads only what it knows takes states that agree to states that agree. -/
theorem AgreeOn.runMicro (h : AgreeOn known s t) {ops : List MicroOp} (hops : readsOnlyKnown known ops = true) :
    AgreeOn [] (runMicro ops s) (runMicro ops t) := by
  induction ops generalizing known s t with
  | nil => exact h.forget
  | cons op ops ih =>
    obtain ⟨hreads, hrest⟩ := Bool.and_eq_true_iff.mp hops
    by_cases hr : s.run = .running
    · rw [runMicro_cons hr, runMicro_cons (h.run ▸ hr)]
      refine ih (h.microStep op fun c hc => h.residue hr c ?_) hrest
      exact List.contains_iff_mem.mp (List.all_eq_true.mp hreads c hc)
    · rw [runMicro_of_ended hr, runMicro_of_ended (h.run ▸ hr)]
      exact h.forget

end Rules

/-- R112: each microprogram "reads no residue". -/
theorem instrProgram_readsOnlyKnown (i : Instr) : readsOnlyKnown [] (instrProgram i) = true := by
  cases i <;> rfl

/-- What is dispatched depends on the opcode on `IBA` and on memory (R111). -/
theorem AgreeOn.dispatch {s t s' : State} (h : AgreeOn [.iba] s t) (hr : s.run = .running)
    (hs : dispatch s = .next s') : ∃ t', dispatch t = .next t' ∧ AgreeOn [] s' t' := by
  have hwords : fetchedWords t = fetchedWords s := by
    have hiba : s.iba = t.iba := h.residue hr .iba (List.mem_singleton_self _)
    rw [fetchedWords, fetchedWords, hiba, h.pc, h.cell, h.cell]
  unfold Machine.dispatch at hs ⊢
  rw [hwords]
  split at hs
  · rename_i i rest hd
    rw [exec_next hs]
    exact ⟨_, exec_of_running (h.run ▸ hr) i, h.forget.runMicro (instrProgram_readsOnlyKnown i)⟩
  · cases hs
    exact ⟨_, rfl, congrArg (fun (a : ArchState) => { a with run := .halted }) h.arch, h.ir, h.pend, nofun⟩

/-- Settles O29: FETCH puts the same Word on the bus in both states or raises in both, and what it dispatches reads no
residue. -/
theorem residueIndependence : Obligations.ResidueIndependence := by
  intro s₁ s₂ t₁ h₁ h₂ harch hir hstep
  obtain ⟨-, hr, -, -⟩ := hostStep_next hstep
  have h : AgreeOn [] s₁ s₂ := ⟨harch, hir, h₁.pend.trans h₂.pend.symm, fun _ => nofun⟩
  have hr₂ : s₂.run = .running := h.run ▸ hr
  have hsame : ∃ t₂, step s₂ = .next t₂ ∧ AgreeOn [] t₁ t₂ := by
    by_cases hp : ValidAddress s₁.cfg s₁.pc
    · have hcell : s₁.cell s₁.pc = s₂.cell s₂.pc := h.pc ▸ h.cell s₁.pc
      have hfetched : AgreeOn [.ext] { s₁ with ext := s₁.cell s₁.pc, ir := s₁.cell s₁.pc }
          { s₂ with ext := s₂.cell s₂.pc, ir := s₂.cell s₂.pc } :=
        AgreeOn.storeStep (h.setResidue .ext hcell) hcell .ir
      rw [step_of_valid h₁ hr hp] at hstep
      rw [step_of_valid h₂ hr₂ (h.cfg ▸ h.pc ▸ hp)]
      exact AgreeOn.dispatch (hfetched.forget.setResidue .iba hcell) hr hstep
    · rw [step_of_invalid h₁ hr hp] at hstep
      rw [step_of_invalid h₂ hr₂ (h.cfg ▸ h.pc ▸ hp)]
      cases hstep
      exact ⟨_, rfl, (h.setResidue .ext h.pc).raise _ _ h.pc⟩
  obtain ⟨t₂, hstep₂, hagree⟩ := hsame
  exact ⟨t₂, hstep₂, hagree.arch.symm, hagree.ir.symm⟩

end Sys2Proof.Machine
end

section
/-! # Accumulator arithmetic: what ADD, SUB and INC leave, residue included (R130 to R132) -/

namespace Sys2Proof.Machine

variable {s : State}

/-- The micro-operations by which ADD, SUB and INC end, up to the last INCPC (R130 steps 9 to 12, R132 steps 3 to 6). -/
def accWriteBack (op : AluOp) : List MicroOp :=
  [.alu op, .aluInternalReadOperand .one, .flagsUpdate, .internalStore .reg0]

theorem accMemProgram_eq (op : AluOp) (addr : OperandWord) :
    accMemProgram op addr = incPc ++ (memoryOperand addr ++ (accWriteBack op ++ incPc)) := by
  simp [accMemProgram, accWriteBack]

theorem incProgram_eq :
    incProgram = [.internalRead .reg0, .aluStoreOperand .one] ++ (accWriteBack .inc ++ incPc) := rfl

/-- R102, R108: the ALU's result goes to `acc1`, over `IBB` to Reg0, and sets the flags. -/
theorem runMicro_accWriteBack (hr : s.run = .running) (hf : s.FlagsOk) {op : AluOp} {r : Int}
    (hres : aluResult s.cfg.W op s.acc0 s.acc1 = r) :
    runMicro (accWriteBack op) s =
      { s with x := s.x.set 0 r, flags := if r = 0 then 1 else if r < 0 then 2 else 0, ibb := r, acc1 := r } := by
  rw [accWriteBack, (runMicro_of_unraising hr rfl).1, ← flagsAfter_eq hf, ← hres]
  rfl

/-- R116: without an operand word the memory operand raises, after Reg0 was saved in `acc0`. -/
theorem runMicro_memoryOperand_of_invalid_pc (hr : s.run = .running) (hp : ¬ ValidAddress s.cfg s.pc)
    (addr : OperandWord) :
    runMicro (memoryOperand addr) s =
      { s with ext := s.pc, iba := s.reg 0, acc0 := s.reg 0 }.raise .outOfBoundsAddress s.pc := by
  rw [memoryOperand, List.append_assoc, runMicro_append, (runMicro_of_unraising hr rfl).1, runMicro_append,
    runMicro_operand_invalid (by exact hr) (by exact hp), runMicro_raise]
  rfl

section Programs

variable (h : s.WF) (hr : s.run = .running) (hp : ValidAddress s.cfg s.pc)
include h hr hp

/-- R130, R131 with the operand word and the data address valid. -/
theorem runMicro_accMemProgram_valid (hp1 : ValidAddress s.cfg (s.pc + 1)) {addr : Int}
    (ha : ValidAddress s.cfg addr) {op : AluOp} {r : Int} (hres : aluResult s.cfg.W op (s.reg 0) (s.cell addr) = r) :
    runMicro (accMemProgram op (some addr)) s =
      { s with x := s.x.set 0 r, flags := if r = 0 then 1 else if r < 0 then 2 else 0, pc := s.pc + 2
               ext := s.cell addr, iba := s.pc + 1, ibb := s.pc + 2, acc0 := s.reg 0, acc1 := s.pc + 2 } := by
  have hx := reg0_exists h
  obtain ⟨hc, -, -, hf, -⟩ := h
  rw [accMemProgram_eq, runMicro_append, runMicro_incPc_valid hc hr hp, runMicro_append,
    runMicro_memoryOperand (by exact hr) (by exact hx) (by exact hp1) (by exact ha), runMicro_append,
    runMicro_accWriteBack (by exact hr) (by exact hf) (by exact hres),
    runMicro_incPc_valid (by exact hc) (by exact hr) (by exact hp1)]
  simp only [List.set_set, pc_add_two]
  rfl

/-- R130, R131: OPERAND raises at the address after the opcode. -/
theorem runMicro_accMemProgram_no_operand (hp1 : ¬ ValidAddress s.cfg (s.pc + 1)) (op : AluOp) (addr : OperandWord) :
    runMicro (accMemProgram op addr) s =
      { s with pc := s.pc + 1, ext := s.pc + 1, iba := s.reg 0, ibb := s.pc + 1, acc0 := s.reg 0
               acc1 := s.pc + 1, run := .faulted .outOfBoundsAddress (s.pc + 1) } := by
  rw [accMemProgram_eq, runMicro_append, runMicro_incPc_valid h.1 hr hp, runMicro_append,
    runMicro_memoryOperand_of_invalid_pc (by exact hr) (by exact hp1), runMicro_raise]
  rfl

/-- R130, R131: the read of the data Word raises. -/
theorem runMicro_accMemProgram_no_data (hp1 : ValidAddress s.cfg (s.pc + 1)) {addr : Int}
    (ha : ¬ ValidAddress s.cfg addr) (op : AluOp) :
    runMicro (accMemProgram op (some addr)) s =
      { s with pc := s.pc + 1, ext := addr, iba := s.reg 0, ibb := s.pc + 1, acc0 := s.reg 0
               acc1 := s.pc + 1, run := .faulted .outOfBoundsAddress addr } := by
  rw [accMemProgram_eq, runMicro_append, runMicro_incPc_valid h.1 hr hp, runMicro_append,
    runMicro_memoryOperand_invalid (by exact hr) (by exact hp1) (by exact ha), runMicro_raise]
  rfl

/-- R132. -/
theorem runMicro_incProgram {r : Int} (hres : wrap s.cfg.W (s.reg 0 + 1) = r) :
    runMicro incProgram s =
      { s with x := s.x.set 0 r, flags := if r = 0 then 1 else if r < 0 then 2 else 0, pc := s.pc + 1
               iba := s.pc, ibb := s.pc + 1, acc1 := s.pc + 1 } := by
  obtain ⟨hc, -, -, hf, -⟩ := h
  rw [incProgram_eq, runMicro_append, (runMicro_of_unraising hr rfl).1, runMicro_append,
    runMicro_accWriteBack (by exact hr) (by exact hf) (by exact hres),
    runMicro_incPc_valid (by exact hc) (by exact hr) (by exact hp)]
  rfl

end Programs

/-- Settles O37: the microprogram of R130 with the ALU adding. -/
theorem addResult : Obligations.AddResult := by
  intro s addr h hr hp
  rw [exec_of_running hr]
  exact ⟨fun hp1 ha => congrArg _ (runMicro_accMemProgram_valid h hr hp hp1 ha rfl),
    fun hp1 => congrArg _ (runMicro_accMemProgram_no_operand h hr hp hp1 .add (some addr)),
    fun hp1 ha => congrArg _ (runMicro_accMemProgram_no_data h hr hp hp1 ha .add)⟩

/-- Settles O38: the same microprogram with the ALU subtracting (R131). -/
theorem subResult : Obligations.SubResult := by
  intro s addr h hr hp
  rw [exec_of_running hr]
  exact ⟨fun hp1 ha => congrArg _ (runMicro_accMemProgram_valid h hr hp hp1 ha rfl),
    fun hp1 => congrArg _ (runMicro_accMemProgram_no_operand h hr hp hp1 .sub (some addr)),
    fun hp1 ha => congrArg _ (runMicro_accMemProgram_no_data h hr hp hp1 ha .sub)⟩

/-- Settles O39: the microprogram of R132 reads no memory, so it cannot raise. -/
theorem incResult : Obligations.IncResult := fun _ h hr hp =>
  (exec_of_running hr .inc).trans (congrArg _ (runMicro_incProgram h hr hp rfl))

end Sys2Proof.Machine
end

section
/-! # Jumps: what JMP and the conditional jumps leave, residue included (R140 to R147) -/

namespace Sys2Proof.Machine

variable {s : State}

/-- The micro-operations by which a conditional jump ends: the fall-through address goes to its slot of the status
memory, and the flag selects the new `PC` (R141 steps 5 to 8). -/
def chooseTarget (i : FlagBit) (p : Polarity) : List MicroOp :=
  [.read .pc, .smStoreIn (fallThroughSlot p), .smSelect (.flag i), .store .pc]

theorem jmpProgram_eq (addr : OperandWord) : jmpProgram addr = incPc ++ (operand addr ++ [.store .pc]) := by
  simp [jmpProgram]

theorem condJumpProgram_eq (i : FlagBit) (p : Polarity) (addr : OperandWord) :
    condJumpProgram i p addr =
      incPc ++ (operand addr ++ ([.smStoreIn (targetSlot p)] ++ (incPc ++ chooseTarget i p))) := by
  simp [condJumpProgram, chooseTarget]

/-- R107, R141 with "jump if set": a set bit selects cell 1, the target's. -/
theorem runMicro_chooseTarget_ifSet (hr : s.run = .running) (i : FlagBit) :
    runMicro (chooseTarget i .ifSet) s =
      { s with pc := if flagGet s.flags i = true then s.sm1 else s.pc
               ext := if flagGet s.flags i = true then s.sm1 else s.pc, sm0 := s.pc } := by
  rw [(runMicro_of_unraising hr rfl).1]
  rfl

/-- R107, R141 with "jump if clear" (D16): a clear bit selects cell 0, which is now the target's. -/
theorem runMicro_chooseTarget_ifClear (hr : s.run = .running) (i : FlagBit) :
    runMicro (chooseTarget i .ifClear) s =
      { s with pc := if flagGet s.flags i = false then s.sm0 else s.pc
               ext := if flagGet s.flags i = false then s.sm0 else s.pc, sm1 := s.pc } := by
  rw [(runMicro_of_unraising hr rfl).1]
  cases hbit : flagGet s.flags i <;> simp [issueAll, chooseTarget, fallThroughSlot, selectBit, hbit]

section Programs

variable (h : s.WF) (hr : s.run = .running) (hp : ValidAddress s.cfg s.pc)
include h hr hp

/-- R109, R116: a program that begins with its operand word has it on `EXT` for the rest. -/
theorem runMicro_incPc_operand_valid (hp1 : ValidAddress s.cfg (s.pc + 1)) (addr : Int) (rest : List MicroOp) :
    runMicro (incPc ++ (operand (some addr) ++ rest)) s =
      runMicro rest { s with pc := s.pc + 1, ext := addr, iba := s.pc, ibb := s.pc + 1, acc1 := s.pc + 1 } := by
  rw [runMicro_append, runMicro_incPc_valid h.1 hr hp, runMicro_append,
    runMicro_operand_some (by exact hr) (by exact hp1)]

/-- R116, R181: OPERAND raises at the address after the opcode, whatever the rest of the program. -/
theorem runMicro_incPc_operand_invalid (hp1 : ¬ ValidAddress s.cfg (s.pc + 1)) (addr : OperandWord)
    (rest : List MicroOp) :
    runMicro (incPc ++ (operand addr ++ rest)) s =
      { s with pc := s.pc + 1, ext := s.pc + 1, iba := s.pc, ibb := s.pc + 1, acc1 := s.pc + 1
               run := .faulted .outOfBoundsAddress (s.pc + 1) } := by
  rw [runMicro_append, runMicro_incPc_valid h.1 hr hp, runMicro_append,
    runMicro_operand_invalid (by exact hr) (by exact hp1), runMicro_raise]
  rfl

/-- R141 steps 1 to 4: the target is in its slot and `PC` at the next instruction when the flag is to choose. -/
theorem runMicro_condJumpProgram_valid (hp1 : ValidAddress s.cfg (s.pc + 1)) (i : FlagBit) (p : Polarity)
    (addr : Int) :
    runMicro (condJumpProgram i p (some addr)) s =
      runMicro (chooseTarget i p) (smStoreInStep (targetSlot p)
        { s with pc := s.pc + 2, ext := addr, iba := s.pc + 1, ibb := s.pc + 2, acc1 := s.pc + 2 }) := by
  rw [condJumpProgram_eq, runMicro_incPc_operand_valid h hr hp hp1, List.singleton_append,
    runMicro_cons (by exact hr), runMicro_append, ← pc_add_two]
  cases p <;> rw [runMicro_incPc_valid (by exact h.1) (by exact hr) (by exact hp1)] <;> rfl

/-- A "jump if set" on flag `i` (R141): both candidates in `sm`, the target in cell 1. -/
theorem runMicro_condJumpProgram_ifSet (hp1 : ValidAddress s.cfg (s.pc + 1)) (i : FlagBit) (addr : Int) :
    runMicro (condJumpProgram i .ifSet (some addr)) s =
      { s with pc := if flagGet s.flags i = true then addr else s.pc + 2
               ext := if flagGet s.flags i = true then addr else s.pc + 2
               iba := s.pc + 1, ibb := s.pc + 2, acc1 := s.pc + 2, sm0 := s.pc + 2, sm1 := addr } := by
  rw [runMicro_condJumpProgram_valid h hr hp hp1, runMicro_chooseTarget_ifSet (by exact hr)]
  rfl

/-- A "jump if clear" on flag `i` (R141): both candidates in `sm`, the target in cell 0. -/
theorem runMicro_condJumpProgram_ifClear (hp1 : ValidAddress s.cfg (s.pc + 1)) (i : FlagBit) (addr : Int) :
    runMicro (condJumpProgram i .ifClear (some addr)) s =
      { s with pc := if flagGet s.flags i = false then addr else s.pc + 2
               ext := if flagGet s.flags i = false then addr else s.pc + 2
               iba := s.pc + 1, ibb := s.pc + 2, acc1 := s.pc + 2, sm0 := addr, sm1 := s.pc + 2 } := by
  rw [runMicro_condJumpProgram_valid h hr hp hp1, runMicro_chooseTarget_ifClear (by exact hr)]
  rfl

/-- R140: the target goes to `PC` as it is. -/
theorem runMicro_jmpProgram_valid (hp1 : ValidAddress s.cfg (s.pc + 1)) (addr : Int) :
    runMicro (jmpProgram (some addr)) s =
      { s with pc := addr, ext := addr, iba := s.pc, ibb := s.pc + 1, acc1 := s.pc + 1 } := by
  rw [jmpProgram_eq, runMicro_incPc_operand_valid h hr hp hp1, (runMicro_of_unraising (by exact hr) rfl).1]
  rfl

/-- R141: without its operand word a conditional jump raises before it writes `sm`. -/
theorem runMicro_condJumpProgram_no_operand (hp1 : ¬ ValidAddress s.cfg (s.pc + 1)) (i : FlagBit) (p : Polarity)
    (addr : OperandWord) :
    runMicro (condJumpProgram i p addr) s =
      { s with pc := s.pc + 1, ext := s.pc + 1, iba := s.pc, ibb := s.pc + 1, acc1 := s.pc + 1
               run := .faulted .outOfBoundsAddress (s.pc + 1) } := by
  rw [condJumpProgram_eq, runMicro_incPc_operand_invalid h hr hp hp1]

end Programs

/-- Settles O40: the operand word, read after one INCPC, is the new `PC`. -/
theorem jmpResult : Obligations.JmpResult := by
  intro s addr h hr hp
  rw [exec_of_running hr, instrProgram]
  refine ⟨fun hp1 => congrArg _ (runMicro_jmpProgram_valid h hr hp hp1 addr), fun hp1 => ?_⟩
  rw [jmpProgram_eq, runMicro_incPc_operand_invalid h hr hp hp1]

/-- Settles O41: JZ and its alias JE issue the "jump if set" microprogram on the Zero flag. -/
theorem jzJeResult : Obligations.JzJeResult := by
  intro s addr i hi h hr hp
  have hprogram : instrProgram i = condJumpProgram .zero .ifSet (some addr) := by
    rcases hi with rfl | rfl <;> rfl
  rw [exec_of_running hr, hprogram]
  exact ⟨fun hp1 => congrArg _ (runMicro_condJumpProgram_ifSet h hr hp hp1 .zero addr),
    fun hp1 => congrArg _ (runMicro_condJumpProgram_no_operand h hr hp hp1 .zero .ifSet (some addr))⟩

/-- Settles O42: JN issues the "jump if set" microprogram on the Negative flag. -/
theorem jnResult : Obligations.JnResult := by
  intro s addr h hr hp
  rw [exec_of_running hr]
  exact ⟨fun hp1 => congrArg _ (runMicro_condJumpProgram_ifSet h hr hp hp1 .negative addr),
    fun hp1 => congrArg _ (runMicro_condJumpProgram_no_operand h hr hp hp1 .negative .ifSet (some addr))⟩

/-- Settles O43: JNZ and its alias JNE issue the "jump if clear" microprogram on the Zero flag. -/
theorem jnzJneResult : Obligations.JnzJneResult := by
  intro s addr i hi h hr hp
  have hprogram : instrProgram i = condJumpProgram .zero .ifClear (some addr) := by
    rcases hi with rfl | rfl <;> rfl
  rw [exec_of_running hr, hprogram]
  exact ⟨fun hp1 => congrArg _ (runMicro_condJumpProgram_ifClear h hr hp hp1 .zero addr),
    fun hp1 => congrArg _ (runMicro_condJumpProgram_no_operand h hr hp hp1 .zero .ifClear (some addr))⟩

end Sys2Proof.Machine
end

section
/-! # Loads, stores and memory increment: what READ, STORE, LDI and INCMEM leave, residue included (R150 to R153) -/

namespace Sys2Proof.Machine

variable {s : State}

/-- INCMEM's sum, left in Reg0 (R153 steps 9 to 11). -/
def sumToReg0 : List MicroOp := [.alu .inc, .aluInternalReadOperand .one, .internalStore .reg0]

theorem readProgram_eq (addr : OperandWord) :
    readProgram addr = incPc ++ (operand addr ++ (.memRead :: .store .reg0 :: incPc)) := by
  simp [readProgram]

theorem storeProgram_eq (addr : OperandWord) :
    storeProgram addr = incPc ++ (operand addr ++ (.memStore :: .read .reg0 :: .memStore :: incPc)) := by
  simp [storeProgram]

theorem ldiProgram_eq (imm : OperandWord) :
    ldiProgram imm = incPc ++ (operand imm ++ (.store .reg0 :: incPc)) := by
  simp [ldiProgram]

/-- INCMEM after its first INCPC, up to the store (R153 steps 2 to 13). -/
def incmemSum (addr : OperandWord) : List MicroOp := memoryOperand addr ++ (sumToReg0 ++ operand addr)

theorem incmemProgram_eq (addr : OperandWord) :
    incmemProgram addr = incPc ++ (incmemSum addr ++
      (.memStore :: .read .reg0 :: .memStore :: .aluInternalReadOperand .zero :: .internalStore .reg0 :: incPc)) := by
  simp [incmemProgram, incmemSum, sumToReg0]

/-- Between instructions nothing is pending (R19), so after a store `pend` is as it was before. -/
theorem afterStore_of_idle (hp : s.pend = none) (r : ReadPort) :
    afterStore r s = (readStep r s).writeCell s.ext (readStep r s).ext := by
  cases r <;> simp only [afterStore, State.writeCell, readStep, State.reg, hp]

/-- R153 steps 2 to 13 at valid addresses: the sum is in Reg0, what Reg0 held in `acc0`, the data address on the bus. -/
theorem runMicro_incmemSum (hr : s.run = .running) (hx : 0 < s.x.length) (hp : ValidAddress s.cfg s.pc) {addr : Int}
    (ha : ValidAddress s.cfg addr) {r : Int} (hres : wrap s.cfg.W (s.cell addr + 1) = r) :
    runMicro (incmemSum (some addr)) s =
      { s with x := s.x.set 0 r, ext := addr, iba := s.cell addr, ibb := r, acc0 := s.reg 0, acc1 := r } := by
  have hword : runMicro (memoryOperand (some addr)) s = afterMemoryOperand (s.cell addr) s :=
    runMicro_memoryOperand hr hx hp ha
  obtain ⟨hsum, hrun⟩ := runMicro_of_unraising (ops := sumToReg0) (s := afterMemoryOperand (s.cell addr) s) hr rfl
  rw [incmemSum, runMicro_append, hword, runMicro_append, hsum, runMicro_operand_some hrun (by exact hp), ← hres]
  simp [issueAll, sumToReg0, afterMemoryOperand, aluResult, State.setReg]

section Programs

variable (h : s.WF) (hr : s.run = .running) (hp : ValidAddress s.cfg s.pc)
include h hr hp

/-- R150 with the operand word and the data address valid. -/
theorem runMicro_readProgram_valid (hp1 : ValidAddress s.cfg (s.pc + 1)) {addr : Int} (ha : ValidAddress s.cfg addr) :
    runMicro (readProgram (some addr)) s =
      { s with x := s.x.set 0 (s.cell addr), pc := s.pc + 2, ext := s.cell addr
               iba := s.pc + 1, ibb := s.pc + 2, acc1 := s.pc + 2 } := by
  rw [readProgram_eq, runMicro_incPc_operand_valid h hr hp hp1, runMicro_memRead_valid (by exact hr) (by exact ha),
    runMicro_cons (by exact hr), runMicro_incPc_valid (by exact h.1) (by exact hr) (by exact hp1), ← pc_add_two]
  rfl

/-- R150: the read of the data Word raises. -/
theorem runMicro_readProgram_no_data (hp1 : ValidAddress s.cfg (s.pc + 1)) {addr : Int}
    (ha : ¬ ValidAddress s.cfg addr) :
    runMicro (readProgram (some addr)) s =
      { s with pc := s.pc + 1, ext := addr, iba := s.pc, ibb := s.pc + 1, acc1 := s.pc + 1
               run := .faulted .outOfBoundsAddress addr } := by
  rw [readProgram_eq, runMicro_incPc_operand_valid h hr hp hp1, runMicro_memRead_invalid (by exact hr) (by exact ha)]
  rfl

/-- R151 with the operand word and the data address valid. -/
theorem runMicro_storeProgram_valid (hp1 : ValidAddress s.cfg (s.pc + 1)) {addr : Int} (ha : ValidAddress s.cfg addr) :
    runMicro (storeProgram (some addr)) s =
      { s with mem := cellWrite s.mem addr.toNat (s.reg 0), pc := s.pc + 2, ext := s.reg 0
               iba := s.pc + 1, ibb := s.pc + 2, acc1 := s.pc + 2 } := by
  rw [storeProgram_eq, runMicro_incPc_operand_valid h hr hp hp1,
    runMicro_store_valid (by exact hr) (by exact h.pend) (by exact ha), afterStore_of_idle (by exact h.pend),
    runMicro_incPc_valid (by exact h.1) (by exact hr) (by exact hp1), ← pc_add_two]
  rfl

/-- R151, R43: the address phase of the store raises. -/
theorem runMicro_storeProgram_no_data (hp1 : ValidAddress s.cfg (s.pc + 1)) {addr : Int}
    (ha : ¬ ValidAddress s.cfg addr) :
    runMicro (storeProgram (some addr)) s =
      { s with pc := s.pc + 1, ext := addr, iba := s.pc, ibb := s.pc + 1, acc1 := s.pc + 1
               run := .faulted .outOfBoundsAddress addr } := by
  rw [storeProgram_eq, runMicro_incPc_operand_valid h hr hp hp1,
    runMicro_memStore_invalid (by exact hr) (by exact h.pend) (by exact ha)]
  rfl

/-- R152 with the operand word in memory. -/
theorem runMicro_ldiProgram_valid (hp1 : ValidAddress s.cfg (s.pc + 1)) (imm : Int) :
    runMicro (ldiProgram (some imm)) s =
      { s with x := s.x.set 0 imm, pc := s.pc + 2, ext := imm
               iba := s.pc + 1, ibb := s.pc + 2, acc1 := s.pc + 2 } := by
  rw [ldiProgram_eq, runMicro_incPc_operand_valid h hr hp hp1, runMicro_cons (by exact hr),
    runMicro_incPc_valid (by exact h.1) (by exact hr) (by exact hp1), ← pc_add_two]
  rfl

/-- R153 with the operand word and the data address valid: Reg0 carries the Word, then the sum, and gets back from
`acc0` what it held. -/
theorem runMicro_incmemProgram_valid (hp1 : ValidAddress s.cfg (s.pc + 1)) {addr : Int}
    (ha : ValidAddress s.cfg addr) {r : Int} (hres : wrap s.cfg.W (s.cell addr + 1) = r) :
    runMicro (incmemProgram (some addr)) s =
      { s with mem := cellWrite s.mem addr.toNat r, pc := s.pc + 2, ext := r
               iba := s.pc + 1, ibb := s.pc + 2, acc0 := s.reg 0, acc1 := s.pc + 2 } := by
  have hx := reg0_exists h
  rw [incmemProgram_eq, runMicro_append, runMicro_incPc_valid h.1 hr hp, runMicro_append,
    runMicro_incmemSum (by exact hr) (by exact hx) (by exact hp1) (by exact ha) (by exact hres),
    runMicro_store_valid (by exact hr) (by exact h.pend) (by exact ha), afterStore_of_idle (by exact h.pend),
    runMicro_cons (by exact hr), runMicro_cons (by exact hr),
    runMicro_incPc_valid (by exact h.1) (by exact hr) (by exact hp1)]
  simp [readStep, State.setReg, State.writeCell, State.reg, hx, pc_add_two]

/-- R153, R116: without the operand word OPERAND raises after Reg0 was saved in `acc0`. -/
theorem runMicro_incmemProgram_no_operand (hp1 : ¬ ValidAddress s.cfg (s.pc + 1)) (addr : OperandWord) :
    runMicro (incmemProgram addr) s =
      { s with pc := s.pc + 1, ext := s.pc + 1, iba := s.reg 0, ibb := s.pc + 1, acc0 := s.reg 0
               acc1 := s.pc + 1, run := .faulted .outOfBoundsAddress (s.pc + 1) } := by
  rw [incmemProgram_eq, incmemSum, List.append_assoc, runMicro_append, runMicro_incPc_valid h.1 hr hp, runMicro_append,
    runMicro_memoryOperand_of_invalid_pc (by exact hr) (by exact hp1), runMicro_raise]
  rfl

/-- R153: the read of the data Word raises, so the store is never begun. -/
theorem runMicro_incmemProgram_no_data (hp1 : ValidAddress s.cfg (s.pc + 1)) {addr : Int}
    (ha : ¬ ValidAddress s.cfg addr) :
    runMicro (incmemProgram (some addr)) s =
      { s with pc := s.pc + 1, ext := addr, iba := s.reg 0, ibb := s.pc + 1, acc0 := s.reg 0
               acc1 := s.pc + 1, run := .faulted .outOfBoundsAddress addr } := by
  rw [incmemProgram_eq, incmemSum, List.append_assoc, runMicro_append, runMicro_incPc_valid h.1 hr hp, runMicro_append,
    runMicro_memoryOperand_invalid (by exact hr) (by exact hp1) (by exact ha), runMicro_raise]
  rfl

end Programs

/-- Settles O44: the read completes, or one of its two addresses raises. -/
theorem readResult : Obligations.ReadResult := by
  intro s addr h hr hp
  rw [exec_of_running hr, instrProgram]
  refine ⟨fun hp1 ha => congrArg _ (runMicro_readProgram_valid h hr hp hp1 ha), fun hp1 => ?_,
    fun hp1 ha => congrArg _ (runMicro_readProgram_no_data h hr hp hp1 ha)⟩
  rw [readProgram_eq, runMicro_incPc_operand_invalid h hr hp hp1]

/-- Settles O45: the store completes, or OPERAND or its address phase raises. -/
theorem storeResult : Obligations.StoreResult := by
  intro s addr h hr hp
  rw [exec_of_running hr, instrProgram]
  refine ⟨fun hp1 ha => congrArg _ (runMicro_storeProgram_valid h hr hp hp1 ha), fun hp1 => ?_,
    fun hp1 ha => congrArg _ (runMicro_storeProgram_no_data h hr hp hp1 ha)⟩
  rw [storeProgram_eq, runMicro_incPc_operand_invalid h hr hp hp1]

/-- Settles O46: the operand word goes to Reg0, or OPERAND raises. -/
theorem ldiResult : Obligations.LdiResult := by
  intro s imm h hr hp
  rw [exec_of_running hr, instrProgram]
  refine ⟨fun hp1 => congrArg _ (runMicro_ldiProgram_valid h hr hp hp1 imm), fun hp1 => ?_⟩
  rw [ldiProgram_eq, runMicro_incPc_operand_invalid h hr hp hp1]

/-- Settles O47: the sum is stored and Reg0 restored, or one of the first two reads raises. -/
theorem incmemResult : Obligations.IncmemResult := by
  intro s addr h hr hp
  rw [exec_of_running hr]
  exact ⟨fun hp1 ha => congrArg _ (runMicro_incmemProgram_valid h hr hp hp1 ha rfl),
    fun hp1 => congrArg _ (runMicro_incmemProgram_no_operand h hr hp hp1 (some addr)),
    fun hp1 ha => congrArg _ (runMicro_incmemProgram_no_data h hr hp hp1 ha)⟩

end Sys2Proof.Machine
end

section
/-! # The one cell that STORE, INCMEM and CALL write (R40, R151, R153, R170)

Each of the three microprograms holds one store, `MEM.store`, the data, `MEM.store`; what comes before it fixes the
address and the data, and what comes before and after it leaves memory alone. No premise says that `PC` is valid: an
instruction that gets as far as its store has read its operand word. -/

namespace Sys2Proof.Machine

variable {s : State}

/-- From `s` to `t` no cell but the one at `a` has changed, and that one holds `v` if nothing was raised. -/
def StoresOnly (s t : State) (a v : Int) : Prop :=
  (t.run = .running → t.cell a = v) ∧ ∀ b, b ≠ a → t.cell b = s.cell b

/-- R19: `pend` is written by `MEM.store` alone. -/
theorem microStep_pend_of_ne_memStore {op : MicroOp} (h : decide (op = .memStore) = false) (s : State) :
    (microStep op s).pend = s.pend := by
  cases op with
  | memStore => cases h
  | read r | store r | internalRead r | internalStore r => cases r <;> rfl
  | aluStoreOperand k | aluInternalStoreOperand k | smStoreIn k => cases k <;> rfl
  | memRead | operandRead | demuxSetValue | stkDecTop | stkCheckNotEmpty =>
    simp only [microStep, memReadStep, demuxSetValueStep, stkDecTopStep, stkCheckNotEmptyStep]
    split <;> rfl
  | _ => rfl

theorem runMicro_cell_of_no_memStore {ops : List MicroOp} (hops : ops.any (fun op => decide (op = .memStore)) = false)
    (s : State) (b : Int) : (runMicro ops s).cell b = s.cell b :=
  runMicro_keeps (f := fun u => u.cell b) (microStep_cell_of_ne_memStore b) hops s

theorem State.WF.canonical (h : s.WF) : Memory.wf s.mem := by
  obtain ⟨-, -, -, -, -, hmem, -⟩ := h
  exact hmem

/-- R43, R44: a store at a valid address changes the addressed cell alone. -/
theorem afterStore_storesOnly (hm : Memory.wf s.mem) (hp : s.pend = none) (ha : ValidAddress s.cfg s.ext)
    (r : ReadPort) : StoresOnly s (afterStore r s) s.ext (readStep r s).ext := by
  have hread : (readStep r s).cfg = s.cfg ∧ (readStep r s).mem = s.mem := by cases r <;> exact ⟨rfl, rfl⟩
  obtain ⟨hcfg, hmem⟩ := hread
  rw [afterStore_of_idle hp]
  refine ⟨fun _ => cell_writeCell_same (hmem ▸ hm) (hcfg ▸ ha) _, fun b hb => ?_⟩
  rw [cell_writeCell_other (hcfg ▸ ha) hb, State.cell, State.cell, hcfg, hmem]

/-- A program with one store changes at most the cell whose address is on the bus when the store begins. -/
theorem runMicro_storesOnly (h : s.WF) {pre post : List MicroOp} {r : ReadPort} {a v : Int}
    (hpre : pre.any (fun op => decide (op = .memStore)) = false)
    (hpost : post.any (fun op => decide (op = .memStore)) = false)
    (hbegin : (runMicro pre s).run = .running → (runMicro pre s).ext = a ∧ (readStep r (runMicro pre s)).ext = v) :
    StoresOnly s (runMicro (pre ++ (.memStore :: .read r :: .memStore :: post)) s) a v := by
  have hcell : ∀ b, (runMicro pre s).cell b = s.cell b := runMicro_cell_of_no_memStore hpre s
  have hpend : (runMicro pre s).pend = none :=
    (runMicro_keeps (f := State.pend) microStep_pend_of_ne_memStore hpre s).trans h.pend
  have hm : Memory.wf (runMicro pre s).mem := runMicro_memory_wf pre h.canonical
  rw [runMicro_append]
  generalize runMicro pre s = u at hcell hpend hm hbegin
  by_cases hu : u.run = .running
  · obtain ⟨rfl, rfl⟩ := hbegin hu
    by_cases ha : ValidAddress u.cfg u.ext
    · obtain ⟨hsame, hother⟩ := afterStore_storesOnly hm hpend ha r
      have hrun : (afterStore r u).run = .running := by cases r <;> exact hu
      rw [runMicro_store_valid hu hpend ha]
      refine ⟨fun _ => ?_, fun b hb => ?_⟩
      · rw [runMicro_cell_of_no_memStore hpost, hsame hrun]
      · rw [runMicro_cell_of_no_memStore hpost, hother b hb, hcell]
    · rw [runMicro_memStore_invalid hu hpend ha]
      exact ⟨nofun, fun b _ => hcell b⟩
  · rw [runMicro_of_ended hu]
    exact ⟨fun hr => absurd hr hu, fun b _ => hcell b⟩

/-! ### What comes before the store -/

/-- A program that completes has run from a running machine (R180). -/
theorem running_of_runMicro {ops : List MicroOp} (h : (runMicro ops s).run = .running) : s.run = .running := by
  by_contra hr
  exact hr (runMicro_of_ended hr ops ▸ h)

/-- R116: an OPERAND that completes has read a valid address. -/
theorem runMicro_operand_of_running {w : Int} (h : (runMicro (operand (some w)) s).run = .running) :
    ValidAddress s.cfg s.pc ∧ runMicro (operand (some w)) s = { s with ext := w } := by
  have hr := running_of_runMicro h
  by_cases hp : ValidAddress s.cfg s.pc
  · exact ⟨hp, runMicro_operand_some hr hp w⟩
  · rw [runMicro_operand_invalid hr hp] at h
    cases h

/-- R113: a decrement that completes had room. -/
theorem stkDecTopStep_of_running (h : (stkDecTopStep s).run = .running) :
    stkDecTopStep s = { s with stkTop := s.stkTop - 1 } := by
  by_cases hfull : s.stkTop - 1 < s.stkBot
  · rw [stkDecTopStep_full hfull] at h
    cases h
  · exact stkDecTopStep_room hfull

/-- R12: the Word after a Word is the next integer, or negative and no address. -/
theorem wrap_add_one_of_valid {c : Config} (hc : c.WF) {a : Int} (ha : Fits c.W a)
    (hnext : ValidAddress c (wrap c.W (a + 1))) : wrap c.W (a + 1) = a + 1 := by
  obtain ⟨hW, -⟩ := hc
  obtain ⟨hlo, hhi⟩ := ha
  have hpos := wordHalf_pos c.W
  by_cases hlast : a + 1 = wordHalf c.W
  · have hwrap : wrap c.W (a + 1) = -wordHalf c.W :=
      wrap_eq_of_fits (by omega) ⟨le_rfl, by omega⟩ 1 (by omega)
    obtain ⟨hnonneg, -⟩ := hnext
    omega
  · exact wrap_of_fits (by omega) ⟨by omega, by omega⟩

/-- R153: if INCMEM gets as far as its store, it has read its operand word and the data Word. -/
theorem valid_of_incmemSum_running (hx : 0 < s.x.length) {addr : Int}
    (h : (runMicro (incmemSum (some addr)) s).run = .running) : ValidAddress s.cfg s.pc ∧ ValidAddress s.cfg addr := by
  have hr := running_of_runMicro h
  rw [incmemSum, runMicro_append] at h
  rcases runMicro_memoryOperand_cases hr hx addr with ⟨hend, -⟩ | ⟨hp, ha, -⟩
  · exact absurd (running_of_runMicro h) hend
  · exact ⟨hp, ha⟩

/-- CALL from its operand word on, up to the store (R170 steps 3 to 6): the target is parked, and the lowered Top is
driven onto the bus. -/
def parkAndLowerTop : List MicroOp := .smStoreIn .one :: (incPc ++ [.stkDecTop, .read .stkTop])

theorem callProgram_eq (addr : OperandWord) :
    callProgram addr = incPc ++ ((operand addr ++ parkAndLowerTop) ++
      (.memStore :: .read .pc :: .memStore :: [.smSelect (.const true), .store .pc])) := by
  simp [callProgram, parkAndLowerTop]

/-- R151: STORE begins its store with the operand on the bus and Reg0 as it was. -/
theorem storeProgram_storesOnly (h : s.WF) (hr : s.run = .running) (addr : Int) :
    StoresOnly s (runMicro (storeProgram (some addr)) s) addr (s.reg 0) := by
  rw [storeProgram_eq, ← List.append_assoc]
  refine runMicro_storesOnly h rfl rfl fun hrun => ?_
  rw [runMicro_append, runMicro_incPc hr] at hrun ⊢
  obtain ⟨-, hoperand⟩ := runMicro_operand_of_running hrun
  rw [hoperand]
  exact ⟨rfl, rfl⟩

/-- R153: INCMEM begins its store with the operand on the bus and the sum in Reg0. -/
theorem incmemProgram_storesOnly (h : s.WF) (hr : s.run = .running) (addr : Int) :
    StoresOnly s (runMicro (incmemProgram (some addr)) s) addr (wrap s.cfg.W (s.cell addr + 1)) := by
  have hx := reg0_exists h
  rw [incmemProgram_eq, ← List.append_assoc]
  refine runMicro_storesOnly h rfl rfl fun hrun => ?_
  rw [runMicro_append, runMicro_incPc hr] at hrun ⊢
  obtain ⟨hp, ha⟩ := valid_of_incmemSum_running (by exact hx) hrun
  rw [runMicro_incmemSum (by exact hr) (by exact hx) hp ha rfl]
  have hreg0 : ∀ v, (s.x.set 0 v).getD 0 0 = v := by simp [hx]
  exact ⟨rfl, hreg0 _⟩

/-- R170: CALL begins its store with the lowered Top on the bus and `PC` at the next instruction. -/
theorem callProgram_storesOnly (h : s.WF) (hr : s.run = .running) (addr : Int) :
    StoresOnly s (runMicro (callProgram (some addr)) s) (s.stkTop - 1) (s.pc + 2) := by
  obtain ⟨hpc, -⟩ := h.cells
  rw [callProgram_eq, ← List.append_assoc]
  refine runMicro_storesOnly h rfl rfl fun hrun => ?_
  rw [runMicro_append, runMicro_incPc hr, runMicro_append] at hrun ⊢
  obtain ⟨hp1, hoperand⟩ := runMicro_operand_of_running (running_of_runMicro hrun)
  have hnext := wrap_add_one_of_valid h.1 hpc hp1
  simp only [hnext] at hp1 hoperand hrun ⊢
  rw [hoperand, parkAndLowerTop, runMicro_cons (by exact hr), runMicro_append,
    runMicro_incPc_valid (by exact h.1) (by exact hr) (by exact hp1), runMicro_cons (by exact hr),
    microStep_stkDecTop] at hrun ⊢
  rw [stkDecTopStep_of_running (running_of_runMicro hrun), runMicro_cons (by exact hr)]
  exact ⟨rfl, pc_add_two s⟩

/-- Settles O36: each of the three is one store, at the address and with the data that its microprogram has reached. -/
theorem storedCells : Obligations.StoredCells :=
  ⟨fun _ _ addr h hexec => exec_next hexec ▸ storeProgram_storesOnly h (running_of_exec_next hexec) addr,
    fun _ _ addr h hexec => exec_next hexec ▸ incmemProgram_storesOnly h (running_of_exec_next hexec) addr,
    fun _ _ addr h hexec => exec_next hexec ▸ callProgram_storesOnly h (running_of_exec_next hexec) addr⟩

end Sys2Proof.Machine
end

section
/-! # Register-operand instructions: what they leave and where they raise, residue included (R160 to R166) -/

namespace Sys2Proof.Machine

variable {s : State}

/-! ### The next operand word as a register id -/

/-- One operand word on, a register is selected (R160 steps 1 to 3 and 6 to 8, R163 steps 1 to 3). -/
def nextRegister (id : OperandWord) : List MicroOp := incPc ++ registerOperand id

theorem registerPair_eq (a b : OperandWord) :
    registerPair a b = nextRegister a ++ ([.demuxInternalRead, .aluStoreOperand .zero] ++ nextRegister b) := by
  simp [registerPair, nextRegister]

theorem State.WF.flagsOk (h : s.WF) : s.FlagsOk := by
  obtain ⟨-, -, -, hf, -⟩ := h
  exact hf

/-- R47: valid addresses form an interval. -/
theorem validAddress_succ {c : Config} {a : Int} (h : ValidAddress c a) (h2 : ValidAddress c (a + 2)) :
    ValidAddress c (a + 1) := by
  obtain ⟨hlo, -⟩ := h
  obtain ⟨-, hhi⟩ := h2
  exact ⟨by omega, by omega⟩

/-- R109 after micro-operations that cannot raise: how every instruction here ends. -/
theorem runMicro_unraising_incPc {ops : List MicroOp} (hc : s.cfg.WF) (hr : s.run = .running)
    (hops : ops.all MicroOp.unraising = true) (hp : ValidAddress s.cfg (issueAll ops s).pc) :
    runMicro (ops ++ incPc) s = afterIncPc (issueAll ops s) := by
  obtain ⟨hissue, hrun⟩ := runMicro_of_unraising hr hops
  have hcfg : (issueAll ops s).cfg = s.cfg := by rw [← hissue, runMicro_cfg]
  rw [runMicro_append, hissue, runMicro_incPc_valid (hcfg ▸ hc) hrun (hcfg ▸ hp), afterIncPc]

section NextRegister

variable (hc : s.cfg.WF) (hr : s.run = .running) (hp : ValidAddress s.cfg s.pc)
include hc hr hp

/-- R166 with the operand word in memory and a valid id. -/
theorem runMicro_nextRegister (hp1 : ValidAddress s.cfg (s.pc + 1)) {id : Int} (hid : ValidRegister s.cfg id) :
    runMicro (nextRegister (some id)) s = afterRegisterOperand id (afterIncPc s) := by
  rw [nextRegister, runMicro_append, runMicro_incPc_valid hc hr hp,
    runMicro_registerOperand (by exact hr) (by exact hp1) (by exact hid)]
  rfl

/-- R116: without the operand word OPERAND raises. -/
theorem runMicro_nextRegister_no_word (hp1 : ¬ ValidAddress s.cfg (s.pc + 1)) (id : OperandWord) :
    runMicro (nextRegister id) s = { afterIncPc s with ext := s.pc + 1 }.raise .outOfBoundsAddress (s.pc + 1) := by
  rw [nextRegister, registerOperand, runMicro_append, runMicro_incPc_valid hc hr hp, runMicro_append,
    runMicro_operand_invalid (by exact hr) (by exact hp1), runMicro_raise]
  rfl

/-- R166, R184: the Demux raises on an id that is no register. -/
theorem runMicro_nextRegister_no_register (hp1 : ValidAddress s.cfg (s.pc + 1)) {id : Int}
    (hid : ¬ ValidRegister s.cfg id) :
    runMicro (nextRegister (some id)) s = { afterIncPc s with ext := id }.raise .invalidRegisterId id := by
  rw [nextRegister, runMicro_append, runMicro_incPc_valid hc hr hp,
    runMicro_registerOperand_invalid (by exact hr) (by exact hp1) (by exact hid)]
  rfl

end NextRegister

/-! ### Two register operands -/

/-- What the first of two register operands leaves: `x[a]` in `acc0` (R160 steps 1 to 5). -/
def afterFirstOfPair (a : Int) (u : State) : State :=
  { afterRegisterOperand a (afterIncPc u) with iba := u.reg a.toNat, acc0 := u.reg a.toNat }

/-- A register-pair program after its two operands: `ops`, then the last INCPC. -/
def pairProgram (a b : Int) (ops : List MicroOp) : List MicroOp :=
  registerPair (some a) (some b) ++ (ops ++ incPc)

/-- The micro-operations between the operands and the last INCPC in R161 and R162 (steps 9 to 14). -/
def regRegBody (op : AluOp) : List MicroOp :=
  [.demuxInternalRead, .aluStoreOperand .one, .alu op, .aluInternalReadOperand .one, .flagsUpdate,
    .demuxInternalStore]

/-- What stands in their place in R165: the ALU compares, and nothing is stored. -/
def cmpBody : List MicroOp :=
  [.demuxInternalRead, .aluStoreOperand .one, .alu .compare, .aluInternalReadOperand .one, .flagsUpdate]

theorem moveregregProgram_eq (a b : Int) :
    moveregregProgram (some a) (some b) = pairProgram a b [.aluInternalReadOperand .zero, .demuxInternalStore] := rfl

theorem regRegProgram_eq (op : AluOp) (a b : Int) :
    regRegProgram op (some a) (some b) = pairProgram a b (regRegBody op) := by
  simp [regRegProgram, pairProgram, regRegBody]

theorem cmpProgram_eq (a b : Int) : cmpProgram (some a) (some b) = pairProgram a b cmpBody := by
  simp [cmpProgram, pairProgram, cmpBody]

/-- R161 steps 9 to 14: `acc0` and the selected register, through the ALU, to the selected register and the flags. -/
theorem issueAll_regRegBody (op : AluOp) (u : State) {r : Int} (hres : aluResult u.cfg.W op u.acc0 (u.reg u.sel) = r) :
    issueAll (regRegBody op) u =
      { u with x := u.x.set u.sel r, flags := flagsAfter u.flags r, iba := u.reg u.sel, ibb := r, acc1 := r } := by
  simp [issueAll, regRegBody, State.setAcc, State.acc, State.setReg, State.setFlags, ← hres, State.reg]

section Pair

variable (h : s.WF) (hr : s.run = .running) (hp : ValidAddress s.cfg s.pc) {a b : Int}
include h hr hp

/-- R160 steps 1 to 5: what follows the first register operand starts from `afterFirstOfPair`. -/
theorem runMicro_registerPair_first (hp1 : ValidAddress s.cfg (s.pc + 1)) (ha : ValidRegister s.cfg a)
    (b : OperandWord) :
    runMicro (registerPair (some a) b) s = runMicro (nextRegister b) (afterFirstOfPair a s) := by
  have hread : runMicro [.demuxInternalRead, .aluStoreOperand .zero] (afterRegisterOperand a (afterIncPc s)) =
      afterFirstOfPair a s := (runMicro_of_unraising (by exact hr) rfl).1
  rw [registerPair_eq, runMicro_append, runMicro_nextRegister h.1 hr hp hp1 ha, runMicro_append, hread]

/-- R160 steps 1 to 8 in a well-formed state: no address wraps. -/
theorem runMicro_registerPair_valid (hp2 : ValidAddress s.cfg (s.pc + 2)) (ha : ValidRegister s.cfg a)
    (hb : ValidRegister s.cfg b) :
    runMicro (registerPair (some a) (some b)) s = afterRegisterPair a b s := by
  have hp1 := validAddress_succ hp hp2
  rw [← pc_add_two] at hp2
  rw [runMicro_registerPair_first h hr hp hp1 ha,
    runMicro_nextRegister (by exact h.1) (by exact hr) (by exact hp1) (by exact hp2) (by exact hb),
    afterRegisterPair, ← pc_add_two]
  rfl

/-- A register-pair instruction with valid operands is its own micro-operations from `afterRegisterPair` on, and the
step over its last word. -/
theorem runMicro_pairProgram {ops : List MicroOp} (hp2 : ValidAddress s.cfg (s.pc + 2)) (ha : ValidRegister s.cfg a)
    (hb : ValidRegister s.cfg b) (hops : ops.all MicroOp.unraising = true)
    (hpc : (issueAll ops (afterRegisterPair a b s)).pc = s.pc + 2) :
    runMicro (pairProgram a b ops) s = afterIncPc (issueAll ops (afterRegisterPair a b s)) := by
  rw [pairProgram, runMicro_append, runMicro_registerPair_valid h hr hp hp2 ha hb]
  exact runMicro_unraising_incPc h.1 hr hops (hpc ▸ hp2)

/-- R161, R162 with valid operands: the ALU's result `r` goes to `x[b]` and sets the flags. -/
theorem runMicro_regRegProgram (hp2 : ValidAddress s.cfg (s.pc + 2)) (ha : ValidRegister s.cfg a)
    (hb : ValidRegister s.cfg b) {op : AluOp} {r : Int}
    (hres : aluResult s.cfg.W op (s.reg a.toNat) (s.reg b.toNat) = r) :
    runMicro (regRegProgram op (some a) (some b)) s =
      { s with x := s.x.set b.toNat r, flags := if r = 0 then 1 else if r < 0 then 2 else 0, pc := s.pc + 3
               ext := b, sel := b.toNat
               iba := s.pc + 2, ibb := s.pc + 3, acc0 := s.reg a.toNat, acc1 := s.pc + 3 } := by
  rw [regRegProgram_eq, runMicro_pairProgram h hr hp hp2 ha hb rfl rfl, issueAll_regRegBody _ _ (by exact hres),
    ← flagsAfter_eq h.flagsOk, ← pc_add_three]
  rfl

end Pair

/-- Settles O48: `x[regA]` goes from `acc0` over `IBB` to the selected register. -/
theorem moveregregResult : Obligations.MoveregregResult := by
  intro s regA regB h hr hp hp2 ha hb
  rw [exec_of_running hr, instrProgram, moveregregProgram_eq, runMicro_pairProgram h hr hp hp2 ha hb rfl rfl,
    ← pc_add_three]
  rfl

/-- Settles O49: the microprogram of R161 with the ALU adding. -/
theorem addregregResult : Obligations.AddregregResult := fun _ _ _ h hr hp hp2 ha hb =>
  (exec_of_running hr _).trans (congrArg _ (runMicro_regRegProgram h hr hp hp2 ha hb rfl))

/-- Settles O50: the same microprogram with the ALU subtracting (R162). -/
theorem subregregResult : Obligations.SubregregResult := fun _ _ _ h hr hp hp2 ha hb =>
  (exec_of_running hr _).trans (congrArg _ (runMicro_regRegProgram h hr hp hp2 ha hb rfl))

/-- Settles O51: the difference reaches the flags and no register. -/
theorem cmpResult : Obligations.CmpResult := by
  intro s regA regB h hr hp hp2 ha hb
  rw [exec_of_running hr, instrProgram, cmpProgram_eq, runMicro_pairProgram h hr hp hp2 ha hb rfl rfl, ← pc_add_three]
  simp only [← flagsAfter_eq h.flagsOk]
  rfl

/-- R103: the wrapped difference of two Words is 0 exactly when they are equal. -/
theorem wrap_sub_eq_zero_iff {W : Nat} (hW : 1 ≤ W) {v w : Int} (hv : Fits W v) (hw : Fits W w) :
    wrap W (v - w) = 0 ↔ v = w := by
  refine ⟨eq_of_wrap_sub_eq_zero hW hv hw, fun heq => ?_⟩
  have hpos := wordHalf_pos W
  rw [heq, sub_self, wrap_of_fits hW ⟨by omega, hpos⟩]

/-- Settles O52: Zero is the wrapped difference being 0, and the registers hold Words. -/
theorem cmpDecidesEquality : Obligations.CmpDecidesEquality := by
  intro s t regA regB h hr hp hp2 ha hb hexec
  have hW : 8 ≤ s.cfg.W := h.1.1
  rw [cmpResult s regA regB h hr hp hp2 ha hb] at hexec
  cases hexec
  constructor
  · rw [State.flagZ, flagGet_zero_of_result, decide_eq_true_iff]
    exact wrap_sub_eq_zero_iff (by omega) (reg_fits h _) (reg_fits h _)
  · rw [State.flagN, flagGet_negative_of_result, decide_eq_true_iff]

/-! ### A register and a memory operand -/

/-- A memory operand after which Reg0 has back what it held: the Word stays in `acc1` (R163 steps 5 to 13). -/
def carriedWord (addr : OperandWord) : List MicroOp :=
  memoryOperand addr ++ [.aluInternalReadOperand .zero, .internalStore .reg0]

/-- R163 steps 14 to 18: the selected register and the Word, through the ALU, to the selected register. -/
def regMemBody (op : AluOp) : List MicroOp :=
  [.demuxInternalRead, .aluStoreOperand .zero, .alu op, .aluInternalReadOperand .one, .demuxInternalStore]

theorem regMemProgram_eq (op : AluOp) (a addr : OperandWord) :
    regMemProgram op a addr = nextRegister a ++ (incPc ++ (carriedWord addr ++ (regMemBody op ++ incPc))) := by
  simp [regMemProgram, nextRegister, carriedWord, regMemBody]

/-- Reg0 is restored, so no register has changed when the selected one is read: also when that is Reg0. -/
theorem runMicro_carriedWord (hr : s.run = .running) (hx : 0 < s.x.length) (hp : ValidAddress s.cfg s.pc) {addr : Int}
    (ha : ValidAddress s.cfg addr) :
    runMicro (carriedWord (some addr)) s =
      { s with ext := s.cell addr, iba := s.cell addr, ibb := s.reg 0, acc0 := s.reg 0, acc1 := s.cell addr } := by
  rw [carriedWord, runMicro_append, runMicro_memoryOperand hr hx hp ha, (runMicro_of_unraising (by exact hr) rfl).1]
  simp [issueAll, State.acc, State.setReg, State.reg, hx]

section RegMem

variable (h : s.WF) (hr : s.run = .running) (hp : ValidAddress s.cfg s.pc) {a : Int}
include h hr hp

/-- R163 steps 1 to 4: with a valid register, `PC` is at the address word and the register is selected. -/
theorem runMicro_regMemProgram_selected (hp1 : ValidAddress s.cfg (s.pc + 1)) (ha : ValidRegister s.cfg a)
    (op : AluOp) (addr : OperandWord) :
    runMicro (regMemProgram op (some a) addr) s =
      runMicro (carriedWord addr ++ (regMemBody op ++ incPc))
        { s with pc := s.pc + 2, ext := a, sel := a.toNat, iba := s.pc + 1, ibb := s.pc + 2, acc1 := s.pc + 2 } := by
  rw [regMemProgram_eq, runMicro_append, runMicro_nextRegister h.1 hr hp hp1 ha, runMicro_append,
    runMicro_incPc_valid (by exact h.1) (by exact hr) (by exact hp1), ← pc_add_two]
  rfl

/-- R163, R164 with both operands valid. -/
theorem runMicro_regMemProgram_valid (hp2 : ValidAddress s.cfg (s.pc + 2)) (ha : ValidRegister s.cfg a) {addr : Int}
    (haddr : ValidAddress s.cfg addr) {op : AluOp} {r : Int}
    (hres : aluResult s.cfg.W op (s.reg a.toNat) (s.cell addr) = r) :
    runMicro (regMemProgram op (some a) (some addr)) s =
      { s with x := s.x.set a.toNat r, pc := s.pc + 3, ext := s.cell addr, sel := a.toNat
               iba := s.pc + 2, ibb := s.pc + 3, acc0 := s.reg a.toNat, acc1 := s.pc + 3 } := by
  have hx := reg0_exists h
  rw [runMicro_regMemProgram_selected h hr hp (validAddress_succ hp hp2) ha, runMicro_append,
    runMicro_carriedWord (by exact hr) (by exact hx) (by exact hp2) (by exact haddr),
    runMicro_unraising_incPc (by exact h.1) (by exact hr) rfl (by exact hp2), ← hres, ← pc_add_three]
  rfl

/-- R163, R164: without the address word OPERAND raises, after Reg0 was saved in `acc0`. -/
theorem runMicro_regMemProgram_no_address (hp1 : ValidAddress s.cfg (s.pc + 1)) (ha : ValidRegister s.cfg a)
    (hp2 : ¬ ValidAddress s.cfg (s.pc + 2)) (op : AluOp) (addr : OperandWord) :
    runMicro (regMemProgram op (some a) addr) s =
      { s with pc := s.pc + 2, ext := s.pc + 2, iba := s.reg 0, ibb := s.pc + 2, acc1 := s.pc + 2
               acc0 := s.reg 0, sel := a.toNat, run := .faulted .outOfBoundsAddress (s.pc + 2) } := by
  rw [runMicro_regMemProgram_selected h hr hp hp1 ha, carriedWord, List.append_assoc, runMicro_append,
    runMicro_memoryOperand_of_invalid_pc (by exact hr) (by exact hp2), runMicro_raise]
  rfl

/-- R163, R164: the read of the data Word raises before Reg0 is touched. -/
theorem runMicro_regMemProgram_no_data (hp2 : ValidAddress s.cfg (s.pc + 2)) (ha : ValidRegister s.cfg a) {addr : Int}
    (haddr : ¬ ValidAddress s.cfg addr) (op : AluOp) :
    runMicro (regMemProgram op (some a) (some addr)) s =
      { s with pc := s.pc + 2, ext := addr, iba := s.reg 0, ibb := s.pc + 2, acc1 := s.pc + 2
               acc0 := s.reg 0, sel := a.toNat, run := .faulted .outOfBoundsAddress addr } := by
  rw [runMicro_regMemProgram_selected h hr hp (validAddress_succ hp hp2) ha, carriedWord, List.append_assoc,
    runMicro_append, runMicro_memoryOperand_invalid (by exact hr) (by exact hp2) (by exact haddr), runMicro_raise]
  rfl

end RegMem

/-- Settles O53: the microprogram of R163 with the ALU adding. -/
theorem addregmemResult : Obligations.AddregmemResult := fun _ _ _ h hr hp hp2 ha haddr =>
  (exec_of_running hr _).trans (congrArg _ (runMicro_regMemProgram_valid h hr hp hp2 ha haddr rfl))

/-- Settles O54: the same microprogram with the ALU subtracting (R164). -/
theorem subregmemResult : Obligations.SubregmemResult := fun _ _ _ h hr hp hp2 ha haddr =>
  (exec_of_running hr _).trans (congrArg _ (runMicro_regMemProgram_valid h hr hp hp2 ha haddr rfl))

/-! ### Where they raise -/

/-- The first operand of a register-pair and of a register-memory instruction alike: no word there, or no register. -/
theorem exec_firstRegister_faults (hc : s.cfg.WF) (hr : s.run = .running) (hp : ValidAddress s.cfg s.pc) {i : Instr}
    {id : Int} {rest : List MicroOp} (hi : instrProgram i = nextRegister (some id) ++ rest) :
    (¬ ValidAddress s.cfg (s.pc + 1) →
      exec i s = .next ({ afterIncPc s with ext := s.pc + 1 }.raise .outOfBoundsAddress (s.pc + 1))) ∧
    (ValidAddress s.cfg (s.pc + 1) → ¬ ValidRegister s.cfg id →
      exec i s = .next ({ afterIncPc s with ext := id }.raise .invalidRegisterId id)) := by
  rw [exec_of_running hr, hi, runMicro_append]
  refine ⟨fun hp1 => ?_, fun hp1 hid => ?_⟩
  · rw [runMicro_nextRegister_no_word hc hr hp hp1, runMicro_raise]
  · rw [runMicro_nextRegister_no_register hc hr hp hp1 hid, runMicro_raise]

/-- The four register-pair instructions differ only after their two operands (R160 to R162, R165). -/
theorem instrProgram_registerPair {a b : Int} {i : Instr}
    (hi : i ∈ [.moveregreg a b, .addregreg a b, .subregreg a b, .cmp a b]) :
    ∃ ops, instrProgram i = pairProgram a b ops := by
  simp only [List.mem_cons, List.not_mem_nil, or_false] at hi
  rcases hi with rfl | rfl | rfl | rfl
  · exact ⟨_, moveregregProgram_eq a b⟩
  · exact ⟨_, regRegProgram_eq .add a b⟩
  · exact ⟨_, regRegProgram_eq .sub a b⟩
  · exact ⟨_, cmpProgram_eq a b⟩

/-- Settles O55: the first operand raises from `s`, the second by the same rule from `afterFirstOfPair`. -/
theorem registerPairFaults : Obligations.RegisterPairFaults := by
  intro s regA regB i hi h hr hp
  obtain ⟨ops, hprogram⟩ := instrProgram_registerPair hi
  obtain ⟨hnoWord, hnoRegister⟩ := exec_firstRegister_faults h.1 hr hp
    (hprogram.trans (by rw [pairProgram, registerPair_eq, List.append_assoc]))
  refine ⟨hnoWord, hnoRegister, fun hp1 ha hp2 => ?_, fun hp2 ha hb => ?_⟩
  · rw [← pc_add_two] at hp2 ⊢
    rw [exec_of_running hr, hprogram, pairProgram, runMicro_append, runMicro_registerPair_first h hr hp hp1 ha,
      runMicro_nextRegister_no_word (by exact h.1) (by exact hr) (by exact hp1) (by exact hp2), runMicro_raise]
    rfl
  · have hp1 := validAddress_succ hp hp2
    rw [← pc_add_two] at hp2 ⊢
    rw [exec_of_running hr, hprogram, pairProgram, runMicro_append, runMicro_registerPair_first h hr hp hp1 ha,
      runMicro_nextRegister_no_register (by exact h.1) (by exact hr) (by exact hp1) (by exact hp2) (by exact hb),
      runMicro_raise]
    rfl

/-- Settles O56: the first operand raises as in a register pair, the second as a memory operand. -/
theorem registerMemoryFaults : Obligations.RegisterMemoryFaults := by
  intro s regA addr i hi h hr hp
  obtain ⟨op, hprogram⟩ : ∃ op, instrProgram i = regMemProgram op (some regA) (some addr) := by
    simp only [List.mem_cons, List.not_mem_nil, or_false] at hi
    rcases hi with rfl | rfl
    · exact ⟨.add, rfl⟩
    · exact ⟨.sub, rfl⟩
  obtain ⟨hnoWord, hnoRegister⟩ := exec_firstRegister_faults h.1 hr hp (hprogram.trans (regMemProgram_eq op _ _))
  refine ⟨hnoWord, hnoRegister, fun hp1 ha hp2 => ?_, fun hp2 ha haddr => ?_⟩
  · rw [exec_of_running hr, hprogram, runMicro_regMemProgram_no_address h hr hp hp1 ha hp2]
  · rw [exec_of_running hr, hprogram, runMicro_regMemProgram_no_data h hr hp hp2 ha haddr]

end Sys2Proof.Machine
end

section
/-! # Subroutine call and return: what CALL and RET leave, residue included, and that they match (R170 to R172) -/

namespace Sys2Proof.Machine

variable {s : State}

/-- CALL once `STK.decTop` has made room (R170 steps 6 to 11): the next instruction's address is stored at Top, and the
parked target goes to `PC`. -/
def storeReturnAndJump : List MicroOp :=
  [.read .stkTop, .memStore, .read .pc, .memStore, .smSelect (.const true), .store .pc]

/-- CALL after its second INCPC (R170 step 5 on): the push (R51) of the next instruction's address, and the jump. -/
def pushAndJump : List MicroOp := .stkDecTop :: storeReturnAndJump

theorem callProgram_eq_pushAndJump (addr : OperandWord) :
    callProgram addr = incPc ++ (operand addr ++ (.smStoreIn .one :: (incPc ++ pushAndJump))) := by
  simp [callProgram, pushAndJump, storeReturnAndJump]

/-- R113 with room, then R43 to R45 at the cell below Top, then the constant select of R107. -/
theorem runMicro_pushAndJump_room (hr : s.run = .running) (hidle : s.pend = none) (hroom : ¬ s.stkTop - 1 < s.stkBot)
    (ha : ValidAddress s.cfg (s.stkTop - 1)) :
    runMicro pushAndJump s =
      { s with stkTop := s.stkTop - 1, mem := cellWrite s.mem (s.stkTop - 1).toNat s.pc
               pc := s.sm1, ext := s.sm1 } := by
  rw [pushAndJump, runMicro_cons hr, microStep_stkDecTop, stkDecTopStep_room hroom, storeReturnAndJump,
    runMicro_cons (by exact hr), microStep_read_stkTop,
    runMicro_store_valid (by exact hr) (by exact hidle) (by exact ha), afterStore_of_idle (by exact hidle),
    (runMicro_of_unraising (by exact hr) rfl).1]
  rfl

/-- R113, R182: the decrement raises, and nothing is stored. -/
theorem runMicro_pushAndJump_full (hr : s.run = .running) (hfull : s.stkTop - 1 < s.stkBot) :
    runMicro pushAndJump s = s.raise .stackOverflow s.stkTop := by
  rw [pushAndJump, runMicro_cons hr, microStep_stkDecTop, stkDecTopStep_full hfull, runMicro_raise]

section Call

variable (h : s.WF) (hr : s.run = .running) (hp : ValidAddress s.cfg s.pc) (hp1 : ValidAddress s.cfg (s.pc + 1))
include h hr hp hp1

/-- R170 steps 1 to 4: when the push begins, the target is parked and `PC` is at the next instruction. -/
theorem runMicro_callProgram_parked (addr : Int) :
    runMicro (callProgram (some addr)) s =
      runMicro pushAndJump
        { s with pc := s.pc + 2, ext := addr, sm1 := addr, iba := s.pc + 1, ibb := s.pc + 2, acc1 := s.pc + 2 } := by
  rw [callProgram_eq_pushAndJump, runMicro_incPc_operand_valid h hr hp hp1, runMicro_cons (by exact hr),
    microStep_smStoreIn_one, runMicro_append, runMicro_incPc_valid (by exact h.1) (by exact hr) (by exact hp1),
    ← pc_add_two]

/-- R170 with the operand word in memory and the stack not full. -/
theorem runMicro_callProgram_room (hne : s.stkTop ≠ s.stkBot) (addr : Int) :
    runMicro (callProgram (some addr)) s =
      { s with stkTop := s.stkTop - 1, mem := cellWrite s.mem (s.stkTop - 1).toNat (s.pc + 2), pc := addr
               ext := addr, sm1 := addr, iba := s.pc + 1, ibb := s.pc + 2, acc1 := s.pc + 2 } := by
  obtain ⟨-, hlo, -⟩ := h.stack
  have hroom : ¬ s.stkTop - 1 < s.stkBot := by omega
  have ha := push_address h hne
  rw [runMicro_callProgram_parked h hr hp hp1, runMicro_pushAndJump_room (by exact hr) (by exact h.pend)
    (by exact hroom) (by exact ha)]

/-- R170, R182: with the stack full CALL stops with its target parked and `PC` at the next instruction. -/
theorem runMicro_callProgram_full (hfull : s.stkTop = s.stkBot) (addr : Int) :
    runMicro (callProgram (some addr)) s =
      { s with pc := s.pc + 2, ext := addr, sm1 := addr, iba := s.pc + 1, ibb := s.pc + 2, acc1 := s.pc + 2
               run := .faulted .stackOverflow s.stkTop } := by
  have hlow : s.stkTop - 1 < s.stkBot := by omega
  rw [runMicro_callProgram_parked h hr hp hp1, runMicro_pushAndJump_full (by exact hr) (by exact hlow)]
  rfl

end Call

/-- Settles O57: CALL pushes and jumps, or its decrement or its OPERAND raises. -/
theorem callResult : Obligations.CallResult := by
  intro s addr h hr hp
  rw [exec_of_running hr, instrProgram]
  refine ⟨fun hp1 hne => congrArg _ (runMicro_callProgram_room h hr hp hp1 hne addr),
    fun hp1 hfull => congrArg _ (runMicro_callProgram_full h hr hp hp1 hfull addr), fun hp1 => ?_⟩
  rw [callProgram_eq_pushAndJump, runMicro_incPc_operand_invalid h hr hp hp1]

/-- R171: RET is a pop whose Word goes on from `EXT` to `PC`. -/
theorem runMicro_retProgram (s : State) : runMicro retProgram s = runMicro [.store .pc] (pop s) :=
  runMicro_append [.stkCheckNotEmpty, .read .stkTop, .memRead, .stkIncTop] [.store .pc] s

theorem runMicro_retProgram_nonempty (h : s.WF) (hr : s.run = .running) (hne : s.stkTop ≠ s.cfg.stackTopInit) :
    runMicro retProgram s = { s with pc := s.cell s.stkTop, ext := s.cell s.stkTop, stkTop := s.stkTop + 1 } := by
  rw [runMicro_retProgram, pop_eq h hr, if_neg hne, runMicro_cons (by exact hr)]
  rfl

theorem runMicro_retProgram_empty (h : s.WF) (hr : s.run = .running) (hempty : s.stkTop = s.cfg.stackTopInit) :
    runMicro retProgram s = s.raise .stackUnderflow s.stkTop := by
  rw [runMicro_retProgram, pop_eq h hr, if_pos hempty, runMicro_raise]

/-- Settles O58: the two cases of the pop. -/
theorem retResult : Obligations.RetResult := by
  intro s h hr
  rw [exec_of_running hr]
  exact ⟨fun hne => congrArg _ (runMicro_retProgram_nonempty h hr hne),
    fun hempty => congrArg _ (runMicro_retProgram_empty h hr hempty)⟩

/-- R16, R113: a program that moves `StkTop` by one decrement alone has, if it completes, lowered it by 1. -/
theorem runMicro_stkTop_of_one_decTop {pre post : List MicroOp} (hpre : pre.any MicroOp.writesStkTop = false)
    (hpost : post.any MicroOp.writesStkTop = false)
    (hrun : (runMicro (pre ++ .stkDecTop :: post) s).run = .running) :
    (runMicro (pre ++ .stkDecTop :: post) s).stkTop = s.stkTop - 1 := by
  rw [runMicro_append] at hrun ⊢
  have hbefore := running_of_runMicro hrun
  rw [runMicro_cons hbefore, microStep_stkDecTop] at hrun ⊢
  rw [runMicro_keeps microStep_stkTop_of_not_writes hpost, stkDecTopStep_of_running (running_of_runMicro hrun),
    runMicro_keeps microStep_stkTop_of_not_writes hpre]

/-- R170: a CALL that completes has lowered `StkTop` by 1, wherever `PC` was. -/
theorem stkTop_of_exec_call {t : State} {addr : Int} (hexec : exec (.call addr) s = .next t)
    (hrun : t.run = .running) : t.stkTop = s.stkTop - 1 := by
  obtain rfl := exec_next hexec
  have hsplit : instrProgram (.call addr) =
      (incPc ++ operand (some addr) ++ [.smStoreIn .one] ++ incPc) ++ .stkDecTop :: storeReturnAndJump := rfl
  rw [hsplit] at hrun ⊢
  exact runMicro_stkTop_of_one_decTop rfl rfl hrun

/-- Settles O59: CALL leaves the address after it at the Top that it lowered (R170), so the stack is not empty and RET
pops that address. No premise says that the CALL stood at a valid `PC`. -/
theorem callThenRetReturns : Obligations.CallThenRetReturns := by
  intro s t u addr h hcall htrun hu hurun hcfg htop hmem
  obtain ⟨-, -, hstores⟩ := storedCells
  obtain ⟨hstored, -⟩ := hstores s t addr h hcall
  obtain ⟨-, -, hhi⟩ := h.stack
  have hlowered : u.stkTop = s.stkTop - 1 := htop.trans (stkTop_of_exec_call hcall htrun)
  have hconfig : u.cfg = s.cfg := by rw [hcfg, exec_next hcall, runMicro_cfg]
  have hreturn : u.cell u.stkTop = s.pc + 2 := by
    rw [hlowered, State.cell, hcfg, hmem]
    exact hstored htrun
  have hne : u.stkTop ≠ u.cfg.stackTopInit := by rw [hconfig]; omega
  obtain ⟨hret, -⟩ := retResult u hu hurun
  exact ⟨_, hret hne, hurun, hreturn, by simp only; omega⟩

end Sys2Proof.Machine
end

section
/-! # The loader contract (R203): after a launch the machine holds what the image names -/

namespace Sys2Proof.Machine

/-- R203: after loading, a named cell reads the value supplied for it. `Nodup` is needed: of two entries for one cell
the first would win. -/
theorem cellRead_loadImage_of_mem {image : Image} (hvalid : ∀ p ∈ image, 0 ≤ p.1)
    (hnodup : (image.map Prod.fst).Nodup) {p : Int × Int} (hp : p ∈ image) :
    cellRead (loadImage image) p.1.toNat = p.2 := by
  induction image with
  | nil => cases hp
  | cons q rest ih =>
    obtain ⟨hq, hrest⟩ := List.nodup_cons.mp hnodup
    rcases List.mem_cons.mp hp with rfl | hp'
    · exact cellRead_cellWrite_same (loadImage_wf rest) _ _
    · have hne : p.1 ≠ q.1 := fun heq => hq (heq ▸ List.mem_map_of_mem hp')
      have hq0 := hvalid q List.mem_cons_self
      have hp0 := hvalid p hp
      rw [loadImage, cellRead_cellWrite_other (by omega)]
      exact ih (fun r hr => hvalid r (List.mem_cons_of_mem q hr)) hrest hp'

/-- R27: reset leaves 0 in every register; an index past `NREGS` reads 0 too. -/
theorem reg_resetWith (c : Config) (m : Memory) (j : Nat) : (State.resetWith c m).reg j = 0 := by
  simp only [State.reg, State.resetWith, List.getD_eq_getElem?_getD, List.getElem?_replicate]
  split <;> rfl

/-- Settles O17: the named cells by induction on the image, the rest by what reset writes. -/
theorem loaderContract : Obligations.LoaderContract := by
  intro c image hc hfits
  have hlaunch : launch c image = .next (State.resetWith c (loadImage image)) := launch_next.mpr ⟨hc, hfits, rfl⟩
  obtain ⟨hvalues, hnodup⟩ := hfits
  have haddr : ∀ p ∈ image, ValidAddress c p.1 := fun p hp => (hvalues p hp).left
  have hcells : ∀ p ∈ image, (State.resetWith c (loadImage image)).cell p.1 = p.2 := by
    intro p hp
    rw [cell_of_valid (haddr p hp)]
    exact cellRead_loadImage_of_mem (fun q hq => (haddr q hq).left) hnodup hp
  exact ⟨_, hlaunch, rfl, hcells, rfl, List.length_replicate, reg_resetWith c _, rfl, rfl, rfl, rfl, rfl, rfl⟩

end Sys2Proof.Machine
end
